-- ==== Sys2Proof/Word.lean ====
section
/-! DEFINITION. The unit of every space of the block is the byte (20_memory.md R40); bit 7 is the most
significant bit of a byte and bit 0 the least (00_scope.md R6). -/

namespace Sys2Proof

/-- A byte: 8 bits (00_scope.md R6). -/
abbrev Byte := BitVec 8

end Sys2Proof
end

