-- ==== Sys2Proof/Syntax.lean ====
section
/-! DEFINITION. The instructions of the block, one constructor per row of opcode_table.json (30_encoding.md R86), and the
encoded inputs they are decoded from. An instruction is "a wire header byte form, a parser operation selected by `st`,
or a host command" (INDEX.md). -/

namespace Sys2Proof

/-- One constructor per row of the table, in the table's order. Operands of a row are its free bits, and the operands
the spec says are not part of the code (the chunk of `RX_FEED` and UM.XOR, `op` and `len` of `TX_WRITE`). -/
inductive Instr where
  /- format RX.B0: header byte 0 on receive (R61, R71 to R76); the operand is FIN, bit 7 -/
  | cont (fin : Bool)
  | text (fin : Bool)
  | bin (fin : Bool)
  | close (fin : Bool)
  | ping (fin : Bool)
  | pong (fin : Bool)
  /- format RX.B1: header byte 1 on receive, MASK = 1 (R62, R94) -/
  | len64
  | len16
  | len7 (len : BitVec 7)
  /- format TX.B0: header byte 0 as the writer emits it (R139) -/
  | tCont
  | tText
  | tBin
  | tClose
  | tPing
  | tPong
  /- format TX.B1: header byte 1 and the extended length as the writer emits them (R136 to R138) -/
  | tLen64 (len : BitVec 64)
  | tLen16 (len : BitVec 16)
  | tLen7 (len : BitVec 7)
  /- format ST: the operation RX_FEED performs, selected by `st` (R93 to R97, R120) -/
  | hpInitial
  | hpLength
  | hpExt16
  | hpExt64
  | hpMask
  | umXor (chunk : List Byte)
  /- format RXCMD: the host commands of the RX half (R90, R151 to R156); the operand of the reserved row is code bit 0 -/
  | rxReset
  | rxStart
  | rxNext
  | rxFeed (chunk : List Byte)
  | rxChfail
  | rxTimeout
  | rxReserved (low : BitVec 1)
  /- format TXCMD: the host commands of the TX half (R135, R141) -/
  | txReset
  | txWrite (op : BitVec 4) (len : BitVec 64)
deriving DecidableEq, Repr

/-- One encoded input, a constructor per format of the table and one for the reset input. The bit patterns of different
formats overlap (0x81 is TEXT, LEN7 and T.TEXT), so a word means nothing without its format. DESIGN CHOICE: the form in
which inputs wait in `State.stream` is the model's (log entry 1). -/
inductive Input where
  /-- the hardware reset input (70_reset_and_hazards.md R210); it is no row of the table -/
  | reset
  /-- a byte of RXS offered as header byte 0 -/
  | rxB0 (b : Byte)
  /-- a byte of RXS offered as header byte 1 -/
  | rxB1 (b : Byte)
  /-- byte 0 of an emitted header -/
  | txB0 (b : Byte)
  /-- byte 1 of an emitted header and the extension bytes after it -/
  | txB1 (bytes : List Byte)
  /-- an `st` code (R83) and, for UM.XOR, its chunk -/
  | st (code : BitVec 3) (chunk : List Byte)
  /-- an RX command code (R83) and, for RX_FEED, its chunk -/
  | rxCmd (code : BitVec 3) (chunk : List Byte)
  /-- a TX command code (R83) and, for TX_WRITE, its operands -/
  | txCmd (code : BitVec 1) (op : BitVec 4) (len : BitVec 64)
deriving DecidableEq, Repr

end Sys2Proof
end

