-- ==== Sys2Proof/Machine/Operands.lean ====
section
/-! DEFINITION. Operand forms: the bit fields of header bytes 0 and 1, the opcode numbers, big-endian assembly and
slicing of lengths, the byte-file accesses, and the unmasking of a chunk. Bit positions and opcode numbers are those of
30_encoding.md R61, R62, R71 to R76, which the spec marks as general knowledge (UNVERIFIED, log entry 12). -/

namespace Sys2Proof.Machine

/-! ### Opcode numbers (R71 to R76) -/

/-- CONT (R71). -/
def opCont : BitVec 4 := 0x0
/-- TEXT (R72). -/
def opText : BitVec 4 := 0x1
/-- BIN (R73). -/
def opBin : BitVec 4 := 0x2
/-- CLOSE (R74). -/
def opClose : BitVec 4 := 0x8
/-- PING (R75). -/
def opPing : BitVec 4 := 0x9
/-- PONG (R76). -/
def opPong : BitVec 4 := 0xA

/-- The six valid opcodes; the other ten values are invalid in both directions (R77). -/
def validOpcode (op : BitVec 4) : Bool :=
  op == opCont || op == opText || op == opBin || op == opClose || op == opPing || op == opPong

/-- A control frame's opcode (00_scope.md R9). -/
def controlOpcode (op : BitVec 4) : Bool :=
  op == opClose || op == opPing || op == opPong

/-! ### Fields of header bytes 0 and 1 (R61, R62) -/

/-- FIN, bit 7 of byte 0. -/
def b0Fin (b : Byte) : Bool := b.getLsbD 7
/-- The three reserved bits 6:4 of byte 0, the one next to FIN most significant (R12, D36). -/
def b0Rsv (b : Byte) : BitVec 3 := b.extractLsb' 4 3
/-- The opcode, bits 3:0 of byte 0. -/
def b0Opcode (b : Byte) : BitVec 4 := b.extractLsb' 0 4
/-- MASK, bit 7 of byte 1. -/
def b1Mask (b : Byte) : Bool := b.getLsbD 7
/-- len7, bits 6:0 of byte 1. -/
def b1Len7 (b : Byte) : BitVec 7 := b.extractLsb' 0 7

/-- Byte 0 with the reserved bits 0. -/
def mkB0 (fin : Bool) (op : BitVec 4) : Byte := (if fin then 0x80#8 else 0x00#8) ||| op.setWidth 8
/-- Byte 1. -/
def mkB1 (masked : Bool) (len7 : BitVec 7) : Byte := (if masked then 0x80#8 else 0x00#8) ||| len7.setWidth 8

/-! ### Big-endian lengths (20_memory.md R41, 30_encoding.md R70, 00_scope.md R7) -/

/-- The number a byte sequence writes, first byte most significant. -/
def beNat (bytes : List Byte) : Nat := bytes.foldl (fun acc b => acc * 256 + b.toNat) 0

/-- `be16(b0, b1) = b0 * 256 + b1`. -/
def be16 (b0 b1 : Byte) : BitVec 16 := BitVec.ofNat 16 (b0.toNat * 256 + b1.toNat)

/-- `be64(b0, ..., b7)`: the sum of `b_i * 2^(8 * (7 - i))`. -/
def be64 (f : Vector Byte 8) : BitVec 64 := BitVec.ofNat 64 (beNat f.toList)

/-- `e[i] = len[15 - 8i : 8 - 8i]`, the two extension bytes of form T16 (R70, R137). -/
def ext16Bytes (len : BitVec 16) : List Byte := [len.extractLsb' 8 8, len.extractLsb' 0 8]

/-- `e[i] = len[63 - 8i : 56 - 8i]` for `i` = 0 to 7, the eight extension bytes of form T64 (R70, R138). -/
def ext64Bytes (len : BitVec 64) : List Byte :=
  [len.extractLsb' 56 8, len.extractLsb' 48 8, len.extractLsb' 40 8, len.extractLsb' 32 8,
   len.extractLsb' 24 8, len.extractLsb' 16 8, len.extractLsb' 8 8, len.extractLsb' 0 8]

/-! ### Byte files (10_state.md R30, 00_scope.md R7 MemRead, MemWrite) -/

/-- `MemRead(B, a, n)`: the `n` bytes at offsets `a` to `a + n - 1` of a byte file. -/
def memRead {k : Nat} (f : Vector Byte k) (a n : Nat) : List Byte := (f.toList.drop a).take n

/-- `MemWrite(B, a, n, v)`: the bytes `v` from offset `a` upward. No rule writes outside a file (R91, R136 to R138); the
function leaves such a byte out, so that it is total. -/
def memWrite {k : Nat} (f : Vector Byte k) (a : Nat) : List Byte → Vector Byte k
  | [] => f
  | b :: bs => memWrite (f.setIfInBounds a b) (a + 1) bs

/-! ### Unmasking (R66, 41_rx_unmasker.md R120) -/

/-- `out[j] = chunk[j] ^ key[(i + j) mod 4]`, for a chunk whose first byte has index `i` in the payload. -/
def xorFrom (key : Vector Byte 4) (i : Nat) : List Byte → List Byte
  | [] => []
  | b :: bs => (b ^^^ key[i % 4]'(Nat.mod_lt _ (by decide))) :: xorFrom key (i + 1) bs

end Sys2Proof.Machine
end

