-- ==== Sys2Proof/Config.lean ====
section
/-! DEFINITION. What an instance fixes (00_scope.md R5, 10_state.md R28) and the one value the spec leaves free
(93_implementation_defined.md U7). A `Config` is a field of `State` that no step changes, so that a claim over every
state is a claim over every configuration. -/

namespace Sys2Proof

/-- `ROLE` (R5, R28): informational, read by no rule (60_exceptions.md R191). -/
inductive Role where
  | initiator
  | responder
deriving DecidableEq, Repr

/-- The configuration of one instance (R5, R28), a field per parameter of R5. Where R5 gives one value only, `Config.wellFormed`
asks for it: the byte files and registers of `State` have those sizes, and a configuration with another is none the spec
describes (DESIGN CHOICE, log entry 20). -/
structure Config where
  /-- `SCRATCH_BYTES`: the size of `scratch`. -/
  scratchBytes : Nat
  /-- `KEY_BYTES`: the size of `key`. -/
  keyBytes : Nat
  /-- `LEN_BITS`: the width of `declared_length`. -/
  lenBits : Nat
  /-- `LEN_MAX`: the largest length the length decoder accepts. -/
  lenMax : Nat
  /-- `MAX_PAYLOAD`: the ceiling of the cumulative length of one logical message; read by LG only. -/
  maxPayload : BitVec 64
  /-- `TXH_BYTES`: the size of `txh`. -/
  txhBytes : Nat
  /-- `ROLE`. -/
  role : Role
  /-- `PAY_CHUNK_MAX`: the largest chunk one `RX_FEED` may carry in `Payload`; `none` is unbounded, the default. -/
  payChunkMax : Option Nat
  /-- `T_INPROGRESS_MS`: the host's bound on waits once a frame has begun; the block has no clock (R192). -/
  inProgressMs : Nat
deriving DecidableEq, Repr

/-- The configuration the reset state carries: the spec's values and defaults (R5). DESIGN CHOICE: `ROLE` has no default ("the
host must pick"), Responder is taken; unsafe only for a claim that reads it, and no rule does (log entry 8). -/
def Config.standard : Config :=
  { scratchBytes := 8, keyBytes := 4, lenBits := 64, lenMax := 2 ^ 63 - 1, maxPayload := 26214400#64, txhBytes := 10
    role := .responder, payChunkMax := none, inProgressMs := 1000 }

/-- The terminator byte the host's reassembler writes after the payload (43_host_interface.md R162): the spec gives no
value (91_not_in_source.md N11, U7 "any value"), so it is a free value. Only the host-software functions of
Machine/Endpoint.lean use it; the block never does (R220). Safe: nothing constrains it (log entry 14). -/
opaque Config.terminator : Byte

end Sys2Proof
end

