-- ==== Sys2Proof/Machine/State.lean ====
section
/-! DEFINITION. The state of the block as plain data (10_state.md), its state after reset (R34), and the reasons a step of
the model can stop. Every register belongs to the RX half or the TX half; no register is shared (10_state.md, header). -/

namespace Sys2Proof.Machine

/-- `st` (10_state.md R18). -/
inductive ParseState where
  | initial
  | length
  | extendedLength16
  | extendedLength64
  | mask
  | payload
deriving DecidableEq, Repr

/-- The kinds of a sticky RX fault (60_exceptions.md R180); InvalidArgument is a response and never stored (R183). -/
inductive FaultKind where
  | protocol
  | size
  | channel
deriving DecidableEq, Repr

/-- The reasons a response carries (60_exceptions.md R181). -/
inductive Reason where
  | rsvNonzero
  | badOpcode
  | noMask
  | partialHeader
  | inProgressTimeout
  | len63
  | ceiling
  | readFailed
  | badCloseCode
deriving DecidableEq, Repr

/-- The reasons of a refused command (60_exceptions.md R190). A command so refused is a NEXT state of the model with this
response, never a `Refusal`. -/
inductive RefuseReason where
  | faulted
  | frameComplete
  | frameInProgress
  | overfeed
  | badCommand
deriving DecidableEq, Repr

/-- The responses of the commands (43_host_interface.md R150). -/
inductive Response where
  | ok
  | needMore (k : Nat)
  | headerDone (len : BitVec 64)
  | payloadData (out : List Byte) (rem : Nat)
  | noFrame
  | fault (kind : FaultKind) (reason : Reason)
  | refused (reason : RefuseReason)
  | header (bytes : List Byte)
  | invalidArgument (reason : Reason)
deriving DecidableEq, Repr

/-- The RX half: the frame slot, the parse progress and the fault status (R10 to R26), and after them the model's record
of what the half answered, took and gave out (log entries 5, 6). -/
structure RxHalf where
  /-- `fin` (R11) -/
  fin : Bool
  /-- `rsv` (R12) -/
  rsv : BitVec 3
  /-- `opcode`, the raw field (R13) -/
  opcode : BitVec 4
  /-- `masked` (R14) -/
  masked : Bool
  /-- `key[0..3]` (R15) -/
  key : Vector Byte 4
  /-- `declared_length` (R16) -/
  declaredLength : BitVec 64
  /-- `maxread` (R17) -/
  maxread : BitVec 64
  /-- `st` (R18) -/
  st : ParseState
  /-- `have` (R19) -/
  haveBytes : BitVec 4
  /-- `pay_idx` (R20) -/
  payIdx : BitVec 64
  /-- `scratch[0..7]` (R21) -/
  scratch : Vector Byte 8
  /-- `rx_fault` (R24); `none` is the value None -/
  rxFault : Option FaultKind
  /-- `cc_valid` (R25) -/
  ccValid : Bool
  /-- `close_code` (R25) -/
  closeCode : BitVec 16
  /-- `msg_total` (R26) -/
  msgTotal : BitVec 64
  /-- the response of the last RX command; `none` before the first (DESIGN CHOICE, log entry 5) -/
  resp : Option Response
  /-- the bytes of RXS accepted so far, in stream order (R40; DESIGN CHOICE, log entry 6) -/
  rxs : List Byte
  /-- the bytes given out on PAYOUT so far, in stream order (R40; DESIGN CHOICE, log entry 6) -/
  payout : List Byte
deriving DecidableEq, Repr

/-- The TX half (R27), and after it the model's record of what the half answered and gave out (log entries 5, 6). -/
structure TxHalf where
  /-- `txh[0..9]` (R27) -/
  txh : Vector Byte 10
  /-- `txh_len` (R27) -/
  txhLen : BitVec 4
  /-- the response of the last TX command; `none` before the first (DESIGN CHOICE, log entry 5) -/
  resp : Option Response
  /-- the header bytes given out on TXS so far, in stream order (R40; DESIGN CHOICE, log entry 6) -/
  txs : List Byte
deriving DecidableEq, Repr

/-- The block: the two halves, the instance's configuration (R28, changed by no step) and the inputs the host has yet to
present, oldest first (DESIGN CHOICE, log entry 1); both halves take theirs from the one list (DEDUCED, log entry 17). -/
structure State where
  config : Config
  rx : RxHalf
  tx : TxHalf
  stream : List Input
deriving DecidableEq, Repr

/-- The faults that stop the machine: there are none. Every fault of the spec is the result of a command, kept in `rx_fault`
or only answered, and the machine goes on (R186, R188, R196; DEDUCED, log entry 7). -/
inductive Fault where
deriving DecidableEq, Repr

/-- The stops of the model. -/
inductive Refusal where
  /-- raised by `exec` for an instruction without a meaning yet; no arm does so. Safe. -/
  | notModelled (mnemonic : String)
  /-- raised by `step` for an input that matches no row and that no wire can present: a byte the writer never emits, an
  `st` code 6 or 7 that is never held (R83, R139). Safe. -/
  | noSuchEncoding
  /-- raised by the meaning of an operation of format ST presented in a state in which the block does not perform it: `st`
  selects another operation, its bytes have not all arrived, or a fault is recorded (R93 to R97, R120, R189). The spec gives
  no effect there (R100: "Every transition not listed does not exist"). Safe. -/
  | operationNotPerformed
deriving DecidableEq, Repr

/-- The RX half after reset (R34, R211). The zeros are the spec's own decision D5 but for `st`, `have`, `msg_total` and the
close code (UNVERIFIED, log entry 13). -/
def RxHalf.reset : RxHalf :=
  { fin := false, rsv := 0, opcode := 0, masked := false, key := Vector.replicate 4 0,
    declaredLength := 0, maxread := 0, st := .initial, haveBytes := 0, payIdx := 0,
    scratch := Vector.replicate 8 0, rxFault := none, ccValid := false, closeCode := 0, msgTotal := 0,
    resp := none, rxs := [], payout := [] }

/-- The TX half after reset (R34, R211). -/
def TxHalf.reset : TxHalf :=
  { txh := Vector.replicate 10 0, txhLen := 0, resp := none, txs := [] }

/-- The block right after reset, configured with the spec's defaults and with no input waiting (R34, R211, R212). -/
def State.reset : State :=
  { config := Config.standard, rx := RxHalf.reset, tx := TxHalf.reset, stream := [] }

end Sys2Proof.Machine
end

