-- ==== Sys2Proof/Machine/Flags.lean ====
section
/-! DEFINITION. Derived outputs and status (10_state.md R22, R23, R29, 43_host_interface.md R157), and the block's internal
codes (30_encoding.md R83). The block has no condition codes (R23). -/

namespace Sys2Proof.Machine

/-- Whether `st` is one of the five header states (00_scope.md R9). -/
def isHeader : ParseState → Bool
  | .initial => true
  | .length => true
  | .extendedLength16 => true
  | .extendedLength64 => true
  | .mask => true
  | .payload => false

/-- `need_total(st)` (R22); `Payload` has none. -/
def needTotal : ParseState → Nat
  | .initial => 1
  | .length => 1
  | .extendedLength16 => 2
  | .extendedLength64 => 8
  | .mask => 4
  | .payload => 0

/-- `need = need_total(st) - have` in a header state, 0 in `Payload` (R22). DESIGN CHOICE: where `have` exceeds the total,
which no run reaches (R33), the difference is 0 and any chunk is an overfeed; safe (log entry 16). -/
def need (r : RxHalf) : Nat := needTotal r.st - r.haveBytes.toNat

/-- `pay_rem = maxread - pay_idx` in `Payload`, else 0 (R22). DESIGN CHOICE as for `need` where `pay_idx` exceeds
`maxread` (log entry 16). -/
def payRem (r : RxHalf) : Nat :=
  if r.st = .payload then r.maxread.toNat - r.payIdx.toNat else 0

/-- `hdr_done = (st = Payload)` (R22). -/
def hdrDone (r : RxHalf) : Bool := r.st == .payload

/-- `frame_done = (st = Payload) and (pay_idx = maxread)` (R22). -/
def frameDone (r : RxHalf) : Bool := r.st == .payload && r.payIdx == r.maxread

/-- Whether a payload chunk of `n` bytes is within `PAY_CHUNK_MAX` (00_scope.md R5, 40_rx_header_parser.md R90 line 5). -/
def withinChunkMax (c : Config) (n : Nat) : Bool :=
  match c.payChunkMax with
  | none => true
  | some k => decide (n ≤ k)

/-! ### Codes (R83) -/

/-- The 3-bit code of `st`. -/
def stCode : ParseState → BitVec 3
  | .initial => 0
  | .length => 1
  | .extendedLength16 => 2
  | .extendedLength64 => 3
  | .mask => 4
  | .payload => 5

/-- The 2-bit code of `rx_fault`. -/
def rxFaultCode : Option FaultKind → BitVec 2
  | none => 0
  | some .protocol => 1
  | some .size => 2
  | some .channel => 3

/-! ### Validity windows (R29). Outside its window a register reads as the value the rules give it. -/

/-- When `fin`, `rsv`, `opcode` are meaningful: past `Initial`, or after a fault of HP.INITIAL, the only Protocol fault
that leaves `st = Initial`. -/
def slotWindow (r : RxHalf) : Bool :=
  !(r.st == .initial) || r.rxFault == some .protocol

/-- When `masked` is meaningful: past `Length`, or after the missing-mask fault, which leaves `st = Length`, `have = 1`. -/
def maskedWindow (r : RxHalf) : Bool :=
  match r.st with
  | .initial => false
  | .length => r.rxFault == some .protocol && r.haveBytes == 1
  | .extendedLength16 => true
  | .extendedLength64 => true
  | .mask => true
  | .payload => true

/-- When `declared_length` is meaningful: in `Mask` and `Payload` (LG's fault leaves `st = Mask`), or after the fault of
HP.EXT64. -/
def lengthWindow (r : RxHalf) : Bool :=
  r.st == .mask || r.st == .payload || (r.st == .extendedLength64 && r.rxFault == some .size)

/-- When `key[0..3]` is meaningful: in `Payload`, or after the fault of LG. -/
def keyWindow (r : RxHalf) : Bool :=
  r.st == .payload || (r.st == .mask && r.rxFault == some .size)

/-- When `maxread` and `pay_idx` are meaningful. -/
def payloadWindow (r : RxHalf) : Bool := r.st == .payload

/-- When `close_code` is meaningful. -/
def closeCodeWindow (r : RxHalf) : Bool := r.ccValid

/-- The readable part of `txh`: `txh[0 .. txh_len-1]` (R157). -/
def txhOut (t : TxHalf) : List Byte := memRead t.txh 0 t.txhLen.toNat

end Sys2Proof.Machine
end

