-- ==== Sys2Proof/Machine/Ops.lean ====
section
/-! DEFINITION. The shared operations of the meanings: answering, refusing and faulting (00_scope.md R7, 60_exceptions.md
R186, R190), clearing the frame slot and the halves (43_host_interface.md R151 to R153, 42_tx_header_writer.md R141), and
placing received bytes (40_rx_header_parser.md R91). Each is a total function of one half. -/

namespace Sys2Proof.Machine

/-- A step of the RX half inside the block; the TX half, the configuration and the inputs are untouched (R50). -/
def State.onRx (f : RxHalf → RxHalf) (s : State) : State := { s with rx := f s.rx }

/-- A step of the TX half inside the block; the RX half, the configuration and the inputs are untouched (R50). -/
def State.onTx (f : TxHalf → TxHalf) (s : State) : State := { s with tx := f s.tx }

/-- `respond X` on the RX half (R7). -/
def RxHalf.respond (x : Response) (r : RxHalf) : RxHalf := { r with resp := some x }

/-- `respond X` on the TX half (R7). -/
def TxHalf.respond (x : Response) (t : TxHalf) : TxHalf := { t with resp := some x }

/-- `refuse(reason)`: the command answers `Refused(reason)` and writes no state (R7, R190). -/
def refuse (reason : RefuseReason) (r : RxHalf) : RxHalf := r.respond (.refused reason)

/-! ### Taking a fault (R186) and leaving it (R188) -/

/-- The close code a fault writes: 1002 for Protocol, 1009 for Size, the old one for Channel (R182; the numbers are the
spec's general knowledge, UNVERIFIED, log entry 12). -/
def faultCloseCode (kind : FaultKind) (old : BitVec 16) : BitVec 16 :=
  match kind with
  | .protocol => 1002
  | .size => 1009
  | .channel => old

/-- `cc_valid` after a fault: set by Protocol and Size, kept by Channel (R182). -/
def faultCcValid (kind : FaultKind) (old : Bool) : Bool :=
  match kind with
  | .protocol => true
  | .size => true
  | .channel => old

/-- `raise K(reason)` (R186): `rx_fault`, the close code and the response are written; every other register, `st` among
them, keeps the value it had at the raise. -/
def raise (kind : FaultKind) (reason : Reason) (r : RxHalf) : RxHalf :=
  { r with
    rxFault := some kind
    closeCode := faultCloseCode kind r.closeCode
    ccValid := faultCcValid kind r.ccValid
    resp := some (.fault kind reason) }

/-- The frame slot and the parse progress as a new wire frame finds them (R152 line 3, less `msg_total`). -/
def clearFrame (r : RxHalf) : RxHalf :=
  { r with
    st := .initial, haveBytes := 0
    fin := false, rsv := 0, opcode := 0, masked := false
    key := Vector.replicate 4 0, scratch := Vector.replicate 8 0
    declaredLength := 0, maxread := 0, payIdx := 0 }

/-- `msg_total <- 0`: a new logical message (R152). -/
def clearTotal (r : RxHalf) : RxHalf := { r with msgTotal := 0 }

/-- The reset state of the RX half's registers (R151). It is the only way a fault and the close code are cleared (R188). -/
def clearRx (r : RxHalf) : RxHalf :=
  { clearTotal (clearFrame r) with rxFault := none, ccValid := false, closeCode := 0 }

/-- The reset state of the TX half's registers (R141). -/
def clearTx (t : TxHalf) : TxHalf := { t with txh := Vector.replicate 10 0, txhLen := 0 }

/-- The hardware reset input: both halves at their reset state, the configuration kept (R210, R211). A reset has no
response, so none is held after it (DESIGN CHOICE, log entry 9). -/
def hardReset (s : State) : State :=
  { s with rx := { clearRx s.rx with resp := none }, tx := { clearTx s.tx with resp := none } }

/-! ### Byte accounting (R91) -/

/-- The first two lines of R91: the chunk goes to `scratch[have]` upward and `have` rises by its length. The bytes are
gone from RXS (R46). -/
def storeChunk (chunk : List Byte) (r : RxHalf) : RxHalf :=
  { r with
    scratch := memWrite r.scratch r.haveBytes.toNat chunk
    haveBytes := BitVec.ofNat 4 (r.haveBytes.toNat + chunk.length)
    rxs := r.rxs ++ chunk }

/-- `st <- S ; have <- 0` (R93 to R97). -/
def RxHalf.goTo (st : ParseState) (r : RxHalf) : RxHalf := { r with st := st, haveBytes := 0 }

/-- Whether the operation selected by `q` is to be performed: no fault is recorded, `st` is `q`, and all its bytes have
arrived (R93 to R97, R189). -/
def performs (q : ParseState) (r : RxHalf) : Bool :=
  r.rxFault == none && r.st == q && r.haveBytes.toNat == needTotal q

end Sys2Proof.Machine
end

