-- ==== Sys2Proof/Machine/Parser.lean ====
section
/-! DEFINITION. The RX header parser's operations HP.INITIAL, HP.LENGTH, HP.EXT16, HP.EXT64, HP.MASK and the length guard LG
(40_rx_header_parser.md R93 to R98), as functions of the RX half once all bytes of the state have arrived, and the meanings
of their five rows of format ST. -/

namespace Sys2Proof.Machine

/-- HP.INITIAL (R93): the three fields are written, then the reserved bits are tested, then the opcode. -/
def hpInitial (r : RxHalf) : RxHalf :=
  let b := r.scratch[0]
  let r' := { r with fin := b0Fin b, rsv := b0Rsv b, opcode := b0Opcode b }
  if b0Rsv b ≠ 0 then raise .protocol .rsvNonzero r'
  else if validOpcode (b0Opcode b) = false then raise .protocol .badOpcode r'
  else (r'.goTo .length).respond (.needMore 1)

/-- HP.LENGTH (R94): the mask bit is required, then the 7-bit field selects the length form. `declared_length` is written
in the third branch only. -/
def hpLength (r : RxHalf) : RxHalf :=
  let b := r.scratch[0]
  let r' := { r with masked := b1Mask b }
  if b1Mask b = false then raise .protocol .noMask r'
  else if b1Len7 b = 126 then (r'.goTo .extendedLength16).respond (.needMore 2)
  else if b1Len7 b = 127 then (r'.goTo .extendedLength64).respond (.needMore 8)
  else (({ r' with declaredLength := (b1Len7 b).setWidth 64 }).goTo .mask).respond (.needMore 4)

/-- HP.EXT16 (R95). -/
def hpExt16 (r : RxHalf) : RxHalf :=
  (({ r with declaredLength := (be16 r.scratch[0] r.scratch[1]).setWidth 64 }).goTo .mask).respond (.needMore 4)

/-- HP.EXT64 (R96): the length is written before its top bit is tested. -/
def hpExt64 (r : RxHalf) : RxHalf :=
  let v := be64 r.scratch
  let r' := { r with declaredLength := v }
  if v.getLsbD 63 then raise .size .len63 r'
  else (r'.goTo .mask).respond (.needMore 4)

/-- The condition of LG (R98), on the exact sum: `msg_total + declared_length > MAX_PAYLOAD`. -/
def overCeiling (c : Config) (r : RxHalf) : Bool :=
  decide (c.maxPayload.toNat < r.msgTotal.toNat + r.declaredLength.toNat)

/-- HP.MASK with LG inside it (R97, R98): the key is stored, then the ceiling is tested, then the payload phase begins. -/
def hpMask (c : Config) (r : RxHalf) : RxHalf :=
  let r' := { r with key := #v[r.scratch[0], r.scratch[1], r.scratch[2], r.scratch[3]] }
  if overCeiling c r' then raise .size .ceiling r'
  else
    (({ r' with
        msgTotal := BitVec.ofNat 64 (r.msgTotal.toNat + r.declaredLength.toNat)
        maxread := r.declaredLength
        payIdx := 0 }).goTo .payload).respond (.headerDone r.declaredLength)

/-- "perform the operation of `st`" (R91): the `st` register selects as an opcode would (R18). -/
def headerOp (c : Config) (r : RxHalf) : RxHalf :=
  match r.st with
  | .initial => hpInitial r
  | .length => hpLength r
  | .extendedLength16 => hpExt16 r
  | .extendedLength64 => hpExt64 r
  | .mask => hpMask c r
  | .payload => r

/-- An operation of format ST presented by itself: performed where the block performs it, else it does not exist (R100;
DESIGN CHOICE, log entry 3). -/
def performed (ready : Bool) (f : RxHalf → RxHalf) (s : State) : Host.Outcome State Fault Refusal :=
  if ready then .next (s.onRx f) else .refused .operationNotPerformed

/-- HP.INITIAL (R93). -/
def execHpInitial (s : State) : Host.Outcome State Fault Refusal :=
  performed (performs .initial s.rx) hpInitial s

/-- HP.LENGTH (R94). -/
def execHpLength (s : State) : Host.Outcome State Fault Refusal :=
  performed (performs .length s.rx) hpLength s

/-- HP.EXT16 (R95). -/
def execHpExt16 (s : State) : Host.Outcome State Fault Refusal :=
  performed (performs .extendedLength16 s.rx) hpExt16 s

/-- HP.EXT64 (R96). -/
def execHpExt64 (s : State) : Host.Outcome State Fault Refusal :=
  performed (performs .extendedLength64 s.rx) hpExt64 s

/-- HP.MASK (R97, R98). -/
def execHpMask (s : State) : Host.Outcome State Fault Refusal :=
  performed (performs .mask s.rx) (hpMask s.config) s

end Sys2Proof.Machine
end

