-- ==== Sys2Proof/Machine/Unmasker.lean ====
section
/-! DEFINITION. The RX payload unmasker: UM.XOR (41_rx_unmasker.md R120) and the meaning of its row of format ST. -/

namespace Sys2Proof.Machine

/-- UM.XOR (R120): the chunk is unmasked with the key from lane `pay_idx mod 4`, `pay_idx` rises by its length, and the new
`pay_rem` is answered. `st` is not changed (R125). -/
def umXor (chunk : List Byte) (r : RxHalf) : RxHalf :=
  let out := xorFrom r.key r.payIdx.toNat chunk
  let idx := r.payIdx.toNat + chunk.length
  ({ r with
      payIdx := BitVec.ofNat 64 idx
      rxs := r.rxs ++ chunk
      payout := r.payout ++ out }).respond (.payloadData out (r.maxread.toNat - idx))

/-- When UM.XOR is performed on a chunk (R120, and R90 line 5 for `PAY_CHUNK_MAX`). -/
def unmasks (c : Config) (chunk : List Byte) (r : RxHalf) : Bool :=
  r.rxFault == none && r.st == .payload && decide (1 ≤ chunk.length) && decide (chunk.length ≤ payRem r) &&
    withinChunkMax c chunk.length

/-- UM.XOR (R120). -/
def execUmXor (chunk : List Byte) (s : State) : Host.Outcome State Fault Refusal :=
  performed (unmasks s.config chunk s.rx) (umXor chunk) s

end Sys2Proof.Machine
end

