-- ==== Sys2Proof/Machine/RxCommands.lean ====
section
/-! DEFINITION. The commands of the RX half: RX_FEED (40_rx_header_parser.md R90, R91), RX_RESET, RX_START, RX_NEXT,
RX_CHFAIL, RX_TIMEOUT and the reserved codes (43_host_interface.md R151 to R156), as functions of the RX half and then as
the meanings of their rows. -/

namespace Sys2Proof.Machine

/-- RX_RESET (R151): never refused. -/
def rxReset (r : RxHalf) : RxHalf := (clearRx r).respond .ok

/-- The two refusals RX_START and RX_NEXT share (R152 lines 1, 2, R153), around what they do otherwise. -/
def startWith (f : RxHalf → RxHalf) (r : RxHalf) : RxHalf :=
  if r.rxFault ≠ none then refuse .faulted r
  else if r.st ≠ .initial ∧ frameDone r = false then refuse .frameInProgress r
  else (f r).respond .ok

/-- RX_START (R152): a new logical message. -/
def rxStart (r : RxHalf) : RxHalf := startWith (fun q => clearTotal (clearFrame q)) r

/-- RX_NEXT (R153): as RX_START, but `msg_total` is kept. -/
def rxNext (r : RxHalf) : RxHalf := startWith clearFrame r

/-- RX_CHFAIL (R154): a channel failure is a Protocol fault exactly when a header is partly parsed, else a Channel fault. -/
def rxChfail (r : RxHalf) : RxHalf :=
  if r.rxFault ≠ none then refuse .faulted r
  else if frameDone r then refuse .frameComplete r
  else
    match r.st with
    | .initial => raise .channel .readFailed r
    | .length => raise .protocol .partialHeader r
    | .extendedLength16 => raise .protocol .partialHeader r
    | .extendedLength64 => raise .protocol .partialHeader r
    | .mask => raise .protocol .partialHeader r
    | .payload => raise .channel .readFailed r

/-- RX_TIMEOUT (R155): no frame in `Initial`, a Protocol fault once a frame has begun. -/
def rxTimeout (r : RxHalf) : RxHalf :=
  if r.rxFault ≠ none then refuse .faulted r
  else if frameDone r then refuse .frameComplete r
  else if r.st = .initial then r.respond .noFrame
  else raise .protocol .inProgressTimeout r

/-- RX_FEED in a header state with `1 <= n <= need` (R91). -/
def feedHeader (c : Config) (chunk : List Byte) (r : RxHalf) : RxHalf :=
  let r' := storeChunk chunk r
  if r'.haveBytes.toNat < needTotal r'.st then r'.respond (.needMore (need r'))
  else headerOp c r'

/-- RX_FEED (R90): the lines in the spec's order, the first that applies decides. -/
def rxFeed (c : Config) (chunk : List Byte) (r : RxHalf) : RxHalf :=
  if r.rxFault ≠ none then refuse .faulted r
  else if frameDone r then refuse .frameComplete r
  else if chunk.length = 0 then rxChfail r
  else if isHeader r.st then
    if need r < chunk.length then refuse .overfeed r else feedHeader c chunk r
  else if payRem r < chunk.length ∨ withinChunkMax c chunk.length = false then refuse .overfeed r
  else umXor chunk r

/-- A reserved RX command code (R156). DESIGN CHOICE: with a fault recorded the answer is still BadCommand; R156 and D33 say so
of the codes, R24, R185 item 1 and D6 would have Faulted of "every RX command". Nothing is written either way (log entry
19). -/
def rxReserved (r : RxHalf) : RxHalf := refuse .badCommand r

/-- RX_RESET (R151). -/
def execRxReset (s : State) : Host.Outcome State Fault Refusal := .next (s.onRx rxReset)

/-- RX_START (R152). -/
def execRxStart (s : State) : Host.Outcome State Fault Refusal := .next (s.onRx rxStart)

/-- RX_NEXT (R153). -/
def execRxNext (s : State) : Host.Outcome State Fault Refusal := .next (s.onRx rxNext)

/-- RX_FEED (R90). -/
def execRxFeed (chunk : List Byte) (s : State) : Host.Outcome State Fault Refusal :=
  .next (s.onRx (rxFeed s.config chunk))

/-- RX_CHFAIL (R154). -/
def execRxChfail (s : State) : Host.Outcome State Fault Refusal := .next (s.onRx rxChfail)

/-- RX_TIMEOUT (R155). -/
def execRxTimeout (s : State) : Host.Outcome State Fault Refusal := .next (s.onRx rxTimeout)

/-- RX_RESERVED, codes 6 and 7 alike (R156): the code's low bit is not read. -/
def execRxReserved (_low : BitVec 1) (s : State) : Host.Outcome State Fault Refusal := .next (s.onRx rxReserved)

end Sys2Proof.Machine
end

