-- ==== Sys2Proof/Machine/RxWire.lean ====
section
/-! DEFINITION. The wire forms of header bytes 0 and 1 on receive (30_encoding.md R71 to R76, 40_rx_header_parser.md R93, R94).
A byte of RXS reaches the block only as the chunk of RX_FEED (20_memory.md R40), so the arrival of a form is RX_FEED of its one
byte: in `Initial` (a byte 0) or `Length` (a byte 1) the form has its own effect, in another state the block does with the
byte what that state's operation does (DESIGN CHOICE, log entry 2). -/

namespace Sys2Proof.Machine

/-- The arrival of one byte on RXS. -/
def arrive (b : Byte) (s : State) : Host.Outcome State Fault Refusal :=
  .next (s.onRx (rxFeed s.config [b]))

/-- CONT (R71). -/
def execCont (fin : Bool) (s : State) : Host.Outcome State Fault Refusal := arrive (mkB0 fin opCont) s

/-- TEXT (R72). -/
def execText (fin : Bool) (s : State) : Host.Outcome State Fault Refusal := arrive (mkB0 fin opText) s

/-- BIN (R73). -/
def execBin (fin : Bool) (s : State) : Host.Outcome State Fault Refusal := arrive (mkB0 fin opBin) s

/-- CLOSE (R74). -/
def execClose (fin : Bool) (s : State) : Host.Outcome State Fault Refusal := arrive (mkB0 fin opClose) s

/-- PING (R75). -/
def execPing (fin : Bool) (s : State) : Host.Outcome State Fault Refusal := arrive (mkB0 fin opPing) s

/-- PONG (R76). -/
def execPong (fin : Bool) (s : State) : Host.Outcome State Fault Refusal := arrive (mkB0 fin opPong) s

/-- LEN64, byte 1 = 0xFF (R94). -/
def execLen64 (s : State) : Host.Outcome State Fault Refusal := arrive 0xFF s

/-- LEN16, byte 1 = 0xFE (R94). -/
def execLen16 (s : State) : Host.Outcome State Fault Refusal := arrive 0xFE s

/-- LEN7, byte 1 = 0x80 with the length in bits 6:0 (R94). -/
def execLen7 (len : BitVec 7) (s : State) : Host.Outcome State Fault Refusal := arrive (mkB1 true len) s

end Sys2Proof.Machine
end

