-- ==== Sys2Proof/Machine/Writer.lean ====
section
/-! DEFINITION. The TX header writer (42_tx_header_writer.md): byte 0 (R139), the three forms HW.LEN7, HW.LEN16, HW.LEN64 (R136
to R138), the commands TX_WRITE (R135) and TX_RESET (R141), and the meanings of the rows of formats TX.B0, TX.B1 and TXCMD. A
row of TX.B0 or TX.B1 by itself is that part of TX_WRITE alone: it writes `txh` (and `txh_len`) and answers nothing (DESIGN
CHOICE, log entry 4). -/

namespace Sys2Proof.Machine

/-- Byte 0: `txh[0] <- 0x80 | zext_8(op)` (R139). -/
def hwByte0 (op : BitVec 4) (t : TxHalf) : TxHalf := { t with txh := memWrite t.txh 0 [mkB0 true op] }

/-- HW.LEN7 (R136). -/
def hwLen7 (len : BitVec 7) (t : TxHalf) : TxHalf :=
  { t with txh := memWrite t.txh 1 [mkB1 false len], txhLen := 2 }

/-- HW.LEN16 (R137). -/
def hwLen16 (len : BitVec 16) (t : TxHalf) : TxHalf :=
  { t with txh := memWrite t.txh 1 (0x7E#8 :: ext16Bytes len), txhLen := 4 }

/-- HW.LEN64 (R138). -/
def hwLen64 (len : BitVec 64) (t : TxHalf) : TxHalf :=
  { t with txh := memWrite t.txh 1 (0x7F#8 :: ext64Bytes len), txhLen := 10 }

/-- The choice of the form by the length (R135, R68). -/
def hwLength (len : BitVec 64) (t : TxHalf) : TxHalf :=
  if len.toNat ≤ 125 then hwLen7 (len.setWidth 7) t
  else if len.toNat ≤ 65535 then hwLen16 (len.setWidth 16) t
  else hwLen64 len t

/-- `respond Header(txh[0 .. txh_len-1])`: the bytes go out on TXS (R40, R135). -/
def emitHeader (t : TxHalf) : TxHalf :=
  ({ t with txs := t.txs ++ txhOut t }).respond (.header (txhOut t))

/-- TX_WRITE (R135): an invalid opcode is answered before any state is written. -/
def txWrite (op : BitVec 4) (len : BitVec 64) (t : TxHalf) : TxHalf :=
  if validOpcode op = false then t.respond (.invalidArgument .badOpcode)
  else emitHeader (hwLength len (hwByte0 op t))

/-- TX_RESET (R141): never refused. -/
def txReset (t : TxHalf) : TxHalf := (clearTx t).respond .ok

/-- T.CONT, byte 0 = 0x80 (R139). -/
def execTCont (s : State) : Host.Outcome State Fault Refusal := .next (s.onTx (hwByte0 opCont))

/-- T.TEXT, byte 0 = 0x81 (R139). -/
def execTText (s : State) : Host.Outcome State Fault Refusal := .next (s.onTx (hwByte0 opText))

/-- T.BIN, byte 0 = 0x82 (R139). -/
def execTBin (s : State) : Host.Outcome State Fault Refusal := .next (s.onTx (hwByte0 opBin))

/-- T.CLOSE, byte 0 = 0x88 (R139). -/
def execTClose (s : State) : Host.Outcome State Fault Refusal := .next (s.onTx (hwByte0 opClose))

/-- T.PING, byte 0 = 0x89 (R139). -/
def execTPing (s : State) : Host.Outcome State Fault Refusal := .next (s.onTx (hwByte0 opPing))

/-- T.PONG, byte 0 = 0x8A (R139). -/
def execTPong (s : State) : Host.Outcome State Fault Refusal := .next (s.onTx (hwByte0 opPong))

/-- T.LEN64 (R138). -/
def execTLen64 (len : BitVec 64) (s : State) : Host.Outcome State Fault Refusal := .next (s.onTx (hwLen64 len))

/-- T.LEN16 (R137). -/
def execTLen16 (len : BitVec 16) (s : State) : Host.Outcome State Fault Refusal := .next (s.onTx (hwLen16 len))

/-- T.LEN7 (R136). -/
def execTLen7 (len : BitVec 7) (s : State) : Host.Outcome State Fault Refusal := .next (s.onTx (hwLen7 len))

/-- TX_RESET (R141). -/
def execTxReset (s : State) : Host.Outcome State Fault Refusal := .next (s.onTx txReset)

/-- TX_WRITE (R135). -/
def execTxWrite (op : BitVec 4) (len : BitVec 64) (s : State) : Host.Outcome State Fault Refusal :=
  .next (s.onTx (txWrite op len))

end Sys2Proof.Machine
end

