-- ==== Sys2Proof/Machine/Dispatch.lean ====
section
/-! DEFINITION. One arm per row of the opcode table: each calls that row's meaning. -/

namespace Sys2Proof.Machine

/-- The meaning of an instruction. -/
def exec (i : Instr) (s : State) : Host.Outcome State Fault Refusal :=
  match i with
  -- format RX.B0
  | .cont fin => Sys2Proof.Machine.execCont fin s
  | .text fin => Sys2Proof.Machine.execText fin s
  | .bin fin => Sys2Proof.Machine.execBin fin s
  | .close fin => Sys2Proof.Machine.execClose fin s
  | .ping fin => Sys2Proof.Machine.execPing fin s
  | .pong fin => Sys2Proof.Machine.execPong fin s
  -- format RX.B1
  | .len64 => Sys2Proof.Machine.execLen64 s
  | .len16 => Sys2Proof.Machine.execLen16 s
  | .len7 len => Sys2Proof.Machine.execLen7 len s
  -- format TX.B0
  | .tCont => Sys2Proof.Machine.execTCont s
  | .tText => Sys2Proof.Machine.execTText s
  | .tBin => Sys2Proof.Machine.execTBin s
  | .tClose => Sys2Proof.Machine.execTClose s
  | .tPing => Sys2Proof.Machine.execTPing s
  | .tPong => Sys2Proof.Machine.execTPong s
  -- format TX.B1
  | .tLen64 len => Sys2Proof.Machine.execTLen64 len s
  | .tLen16 len => Sys2Proof.Machine.execTLen16 len s
  | .tLen7 len => Sys2Proof.Machine.execTLen7 len s
  -- format ST
  | .hpInitial => Sys2Proof.Machine.execHpInitial s
  | .hpLength => Sys2Proof.Machine.execHpLength s
  | .hpExt16 => Sys2Proof.Machine.execHpExt16 s
  | .hpExt64 => Sys2Proof.Machine.execHpExt64 s
  | .hpMask => Sys2Proof.Machine.execHpMask s
  | .umXor chunk => Sys2Proof.Machine.execUmXor chunk s
  -- format RXCMD
  | .rxReset => Sys2Proof.Machine.execRxReset s
  | .rxStart => Sys2Proof.Machine.execRxStart s
  | .rxNext => Sys2Proof.Machine.execRxNext s
  | .rxFeed chunk => Sys2Proof.Machine.execRxFeed chunk s
  | .rxChfail => Sys2Proof.Machine.execRxChfail s
  | .rxTimeout => Sys2Proof.Machine.execRxTimeout s
  | .rxReserved low => Sys2Proof.Machine.execRxReserved low s
  -- format TXCMD
  | .txReset => Sys2Proof.Machine.execTxReset s
  | .txWrite op len => Sys2Proof.Machine.execTxWrite op len s

end Sys2Proof.Machine
end

