-- ==== Sys2Proof/WellFormed.lean ====
section
/-! DEFINITION. What an instruction and a configuration must satisfy for the spec to give them a meaning. -/

namespace Sys2Proof

/-- The two checks on syntax: the 7-bit length rows hold 0 to 125, because 126 and 127 are the selectors of the two rows
before them (30_encoding.md R63, R64, R68, R86). Every other operand is free over its whole width. -/
def Instr.wellFormed : Instr → Bool
  | .len7 len => decide (len.toNat ≤ 125)
  | .tLen7 len => decide (len.toNat ≤ 125)
  | .cont _ => true
  | .text _ => true
  | .bin _ => true
  | .close _ => true
  | .ping _ => true
  | .pong _ => true
  | .len64 => true
  | .len16 => true
  | .tCont => true
  | .tText => true
  | .tBin => true
  | .tClose => true
  | .tPing => true
  | .tPong => true
  | .tLen64 _ => true
  | .tLen16 _ => true
  | .hpInitial => true
  | .hpLength => true
  | .hpExt16 => true
  | .hpExt64 => true
  | .hpMask => true
  | .umXor _ => true
  | .rxReset => true
  | .rxStart => true
  | .rxNext => true
  | .rxFeed _ => true
  | .rxChfail => true
  | .rxTimeout => true
  | .rxReserved _ => true
  | .txReset => true
  | .txWrite _ _ => true

/-- The constraints of 00_scope.md R5 on a configuration: the value of each parameter that has one, `MAX_PAYLOAD < 2^63`, and
`PAY_CHUNK_MAX` at least 1. `T_INPROGRESS_MS` is a parameter with the value 1000 (93_implementation_defined.md U18); no
constraint is put on it, so that a claim holds for every bound (log entry 20). -/
def Config.wellFormed (c : Config) : Bool :=
  decide (c.scratchBytes = 8) && decide (c.keyBytes = 4) && decide (c.lenBits = 64) &&
    decide (c.lenMax = 2 ^ 63 - 1) && decide (c.txhBytes = 10) && decide (c.maxPayload.toNat < 2 ^ 63) &&
    match c.payChunkMax with
    | none => true
    | some k => decide (1 ≤ k)

end Sys2Proof
end

