-- ==== Sys2Proof/Decode.lean ====
section
/-! DEFINITION. The decoder, total on every input and rejecting by name, written from opcode_table.json and 30_encoding.md
R86; after it the encoder, written from the same tables; after that the decoding of an unlabelled table word. -/

namespace Sys2Proof

open Sys2Proof.Machine

/-- Why an input is no instruction. -/
inductive Reject where
  /-- the reset input is no row of the table (R210); the step handles it itself -/
  | isReset
  /-- byte 0 with a reserved bit set (R78) -/
  | rsvNonzero
  /-- byte 0 with one of the ten invalid opcodes (R77) -/
  | badOpcode
  /-- byte 1 with MASK = 0 on receive (R79) -/
  | noMask
  /-- a byte 0 the writer never emits: FIN clear, a reserved bit set, or an invalid opcode (R139) -/
  | notEmitted
  /-- a byte 1 the writer never emits, MASK set, or a wrong number of extension bytes (R68, R140) -/
  | badExtension
  /-- `st` codes 6 and 7, unused and unreachable (R83) -/
  | unusedState
deriving DecidableEq, Repr

/-- Format RX.B0: `b & 0x7F` selects the row, bit 7 is FIN (R61, R71 to R78). -/
def decodeRxB0 (b : Byte) : Except Reject Instr :=
  if b0Rsv b ≠ 0 then .error .rsvNonzero
  else if b0Opcode b = opCont then .ok (.cont (b0Fin b))
  else if b0Opcode b = opText then .ok (.text (b0Fin b))
  else if b0Opcode b = opBin then .ok (.bin (b0Fin b))
  else if b0Opcode b = opClose then .ok (.close (b0Fin b))
  else if b0Opcode b = opPing then .ok (.ping (b0Fin b))
  else if b0Opcode b = opPong then .ok (.pong (b0Fin b))
  else .error .badOpcode

/-- Format RX.B1, rows in priority order LEN64, LEN16, LEN7 (R62, R79, R86). -/
def decodeRxB1 (b : Byte) : Except Reject Instr :=
  if b1Mask b = false then .error .noMask
  else if b1Len7 b = 127 then .ok .len64
  else if b1Len7 b = 126 then .ok .len16
  else .ok (.len7 (b1Len7 b))

/-- Format TX.B0: the six bytes the writer emits, FIN = 1 and the reserved bits 0 (R139). -/
def decodeTxB0 (b : Byte) : Except Reject Instr :=
  if b = mkB0 true opCont then .ok .tCont
  else if b = mkB0 true opText then .ok .tText
  else if b = mkB0 true opBin then .ok .tBin
  else if b = mkB0 true opClose then .ok .tClose
  else if b = mkB0 true opPing then .ok .tPing
  else if b = mkB0 true opPong then .ok .tPong
  else .error .notEmitted

/-- Format TX.B1, rows in priority order T.LEN64, T.LEN16, T.LEN7, with the extension bytes after byte 1 (R68, R86). -/
def decodeTxB1 : List Byte → Except Reject Instr
  | [b] =>
    if b1Mask b = true then .error .badExtension
    else if 126 ≤ (b1Len7 b).toNat then .error .badExtension
    else .ok (.tLen7 (b1Len7 b))
  | [b, e0, e1] => if b = 0x7E then .ok (.tLen16 (be16 e0 e1)) else .error .badExtension
  | [b, e0, e1, e2, e3, e4, e5, e6, e7] =>
    if b = 0x7F then .ok (.tLen64 (be64 #v[e0, e1, e2, e3, e4, e5, e6, e7])) else .error .badExtension
  | _ => .error .badExtension

/-- Format ST: the operation selected by the 3-bit `st` code (R83). The chunk is UM.XOR's operand. -/
def decodeSt (code : BitVec 3) (chunk : List Byte) : Except Reject Instr :=
  match code.toNat with
  | 0 => .ok .hpInitial
  | 1 => .ok .hpLength
  | 2 => .ok .hpExt16
  | 3 => .ok .hpExt64
  | 4 => .ok .hpMask
  | 5 => .ok (.umXor chunk)
  | _ => .error .unusedState

/-- Format RXCMD: the 3-bit RX command code (R83). The chunk is RX_FEED's operand. Codes 6 and 7 are the row
RX_RESERVED. -/
def decodeRxCmd (code : BitVec 3) (chunk : List Byte) : Except Reject Instr :=
  match code.toNat with
  | 0 => .ok .rxReset
  | 1 => .ok .rxStart
  | 2 => .ok .rxNext
  | 3 => .ok (.rxFeed chunk)
  | 4 => .ok .rxChfail
  | 5 => .ok .rxTimeout
  | _ => .ok (.rxReserved (code.extractLsb' 0 1))

/-- Format TXCMD: the 1-bit TX command code (R83). -/
def decodeTxCmd (code : BitVec 1) (op : BitVec 4) (len : BitVec 64) : Except Reject Instr :=
  if code = 0 then .ok .txReset else .ok (.txWrite op len)

/-- The decoder, total on every input: each format by its own rows (R86). Operands presented with a row that has none are
not read (DESIGN CHOICE, log entry 18). -/
def decode : Input → Except Reject Instr
  | .reset => .error .isReset
  | .rxB0 b => decodeRxB0 b
  | .rxB1 b => decodeRxB1 b
  | .txB0 b => decodeTxB0 b
  | .txB1 bytes => decodeTxB1 bytes
  | .st code chunk => decodeSt code chunk
  | .rxCmd code chunk => decodeRxCmd code chunk
  | .txCmd code op len => decodeTxCmd code op len

/-- The encoder, from the same tables (R61, R62, R68, R70, R83). -/
def encode : Instr → Input
  | .cont fin => .rxB0 (mkB0 fin opCont)
  | .text fin => .rxB0 (mkB0 fin opText)
  | .bin fin => .rxB0 (mkB0 fin opBin)
  | .close fin => .rxB0 (mkB0 fin opClose)
  | .ping fin => .rxB0 (mkB0 fin opPing)
  | .pong fin => .rxB0 (mkB0 fin opPong)
  | .len64 => .rxB1 0xFF
  | .len16 => .rxB1 0xFE
  | .len7 len => .rxB1 (mkB1 true len)
  | .tCont => .txB0 0x80
  | .tText => .txB0 0x81
  | .tBin => .txB0 0x82
  | .tClose => .txB0 0x88
  | .tPing => .txB0 0x89
  | .tPong => .txB0 0x8A
  | .tLen64 len => .txB1 (0x7F :: ext64Bytes len)
  | .tLen16 len => .txB1 (0x7E :: ext16Bytes len)
  | .tLen7 len => .txB1 [mkB1 false len]
  | .hpInitial => .st 0 []
  | .hpLength => .st 1 []
  | .hpExt16 => .st 2 []
  | .hpExt64 => .st 3 []
  | .hpMask => .st 4 []
  | .umXor chunk => .st 5 chunk
  | .rxReset => .rxCmd 0 []
  | .rxStart => .rxCmd 1 []
  | .rxNext => .rxCmd 2 []
  | .rxFeed chunk => .rxCmd 3 chunk
  | .rxChfail => .rxCmd 4 []
  | .rxTimeout => .rxCmd 5 []
  | .rxReserved low => .rxCmd (0x6#3 ||| low.setWidth 3) []
  | .txReset => .txCmd 0 0 0
  | .txWrite op len => .txCmd 1 op len

/-! ### Unlabelled table words -/

/-- Byte `k` of a word numbered as the table numbers it: bits `8k + 7` down to `8k`. -/
def tableByte (w k : Nat) : Byte := BitVec.ofNat 8 (w >>> (8 * k))

/-- The inputs an unlabelled word of one byte (and, for TX.B1, its extension bytes above it) may stand for, in the order
in which the model tries them. The table's formats overlap: 0x00 alone matches a row of RX.B0, TX.B1, ST, RXCMD and TXCMD.
DESIGN CHOICE, log entry 10: command codes first, then emitted byte 0, received byte 0, received byte 1, emitted byte 1.
A word of fewer than 8 bits is a command code (1 bit: TXCMD, else RXCMD). -/
def tableInputs (nbits w : Nat) : List Input :=
  let b := tableByte w 0
  let oneByte : List Input :=
    if w < 256 then
      (if w < 8 then [.rxCmd (BitVec.ofNat 3 w) []] else []) ++ [.txB0 b, .rxB0 b, .rxB1 b, .txB1 [b]]
    else []
  let extended : List Input :=
    if b = 0x7E then [.txB1 [b, tableByte w 1, tableByte w 2]]
    else if b = 0x7F then
      [.txB1 [b, tableByte w 1, tableByte w 2, tableByte w 3, tableByte w 4, tableByte w 5, tableByte w 6,
        tableByte w 7, tableByte w 8]]
    else []
  if nbits = 1 then (if w < 2 then [.txCmd (BitVec.ofNat 1 w) 0 0] else [])
  else if nbits < 8 then (if w < 8 then [.rxCmd (BitVec.ofNat 3 w) []] else [])
  else oneByte ++ extended

/-- Whether the decoder gives an instruction. -/
def decodes (i : Input) : Bool :=
  match decode i with
  | .ok _ => true
  | .error _ => false

/-- The first input a table word may stand for that decodes. -/
def tableInput (nbits w : Nat) : Option Input := (tableInputs nbits w).find? decodes

/-- The instruction the decoder reads from a table word (the host's probe). -/
def decodeTableWord (nbits w : Nat) : Option Instr :=
  match tableInput nbits w with
  | none => none
  | some i =>
    match decode i with
    | .ok instr => some instr
    | .error _ => none

end Sys2Proof
end

