-- ==== Sys2Proof/Machine/Fetch.lean ====
section
/-! DEFINITION. Where the next instruction comes from: the oldest input waiting in `State.stream` (DESIGN CHOICE, log entry 1). -/

namespace Sys2Proof.Machine

/-- The oldest waiting input, and the state without it. None waiting: the block is idle (60_exceptions.md R199). -/
def fetch (s : State) : Option (Input × State) :=
  match s.stream with
  | [] => none
  | i :: rest => some (i, { s with stream := rest })

/-- What becomes of an input that no row of its format matches. A byte of RXS is fed like any other, and the block faults by
30_encoding.md R77 to R79 where the spec says so; the other formats hold no such word (R83, R139; log entry 11). The reset
input is handled before this (R210). -/
def unmatched (i : Input) (s : State) : Host.Outcome State Fault Refusal :=
  match i with
  | .reset => .next (hardReset s)
  | .rxB0 b => arrive b s
  | .rxB1 b => arrive b s
  | .txB0 _ => .refused .noSuchEncoding
  | .txB1 _ => .refused .noSuchEncoding
  | .st _ _ => .refused .noSuchEncoding
  | .rxCmd _ _ => .refused .noSuchEncoding
  | .txCmd _ _ _ => .refused .noSuchEncoding

/-- The state with an input put where `fetch` takes the next one. -/
def present (i : Input) (s : State) : State := { s with stream := i :: s.stream }

/-- The state with a table word presented (the host's probe): the input the decoder reads from it, or, where it reads none,
the first input the word may stand for; a word that may stand for none leaves the state as it is. -/
def presentWord (s : State) (nbits w : Nat) : State :=
  match tableInput nbits w with
  | some i => present i s
  | none =>
    match tableInputs nbits w with
    | i :: _ => present i s
    | [] => s

end Sys2Proof.Machine
end

