-- ==== Sys2Proof/Machine/Step.lean ====
section
/-! DEFINITION. One step of the block: the next input is taken and its instruction executed. A command is one atomic transition
(00_scope.md R7). With no input waiting the block keeps all its state (60_exceptions.md R199, 70_reset_and_hazards.md R223). -/

namespace Sys2Proof.Machine

/-- One step. -/
def step (s : State) : Host.Outcome State Fault Refusal :=
  match fetch s with
  | none => .next s
  | some (i, t) =>
    match decode i with
    | .ok instr => exec instr t
    | .error _ => unmatched i t

/-- The state with a table word where `step` takes its next instruction (the host's probe). -/
def State.withFetchWord (s : State) (nbits w : Nat) : State := presentWord s nbits w

end Sys2Proof.Machine
end

