-- ==== Sys2Proof/Machine/Endpoint.lean ====
section
/-! DEFINITION. The software around the block, at the boundary the spec gives it (43_host_interface.md R160 to R172, 30_encoding.md
R84, R85, 41_rx_unmasker.md R121, 70_reset_and_hazards.md R218). It is NOT part of the block (00_scope.md R4), no instruction
reads it and `step` never calls it; it is here so that claims can be made about what a host does with the block (log entry
15). -/

namespace Sys2Proof.Machine

/-! ### Wire frames and the masking stage (R84, R218) -/

/-- The header bytes in the shortest length form, less the key (R68, R84). -/
def headerBytes (fin : Bool) (op : BitVec 4) (masked : Bool) (len : Nat) : List Byte :=
  mkB0 fin op ::
    (if len ≤ 125 then [mkB1 masked (BitVec.ofNat 7 len)]
     else if len ≤ 65535 then mkB1 masked 126 :: ext16Bytes (BitVec.ofNat 16 len)
     else mkB1 masked 127 :: ext64Bytes (BitVec.ofNat 64 len))

/-- `FRAME(fin, OP, key | nomask, payload)` (R84). -/
def frameBytes (fin : Bool) (op : BitVec 4) (key : Option (Vector Byte 4)) (payload : List Byte) : List Byte :=
  match key with
  | none => headerBytes fin op false payload.length ++ payload
  | some k => headerBytes fin op true payload.length ++ k.toList ++ xorFrom k 0 payload

/-- The masking stage's work on a header: bit 7 of byte 1 is set and the key inserted after the length (R218). -/
def maskHeader (key : Vector Byte 4) : List Byte → List Byte
  | b0 :: b1 :: ext => b0 :: (b1 ||| 0x80#8) :: (ext ++ key.toList)
  | short => short

/-- Chunks fed one after another. -/
def feedChunks (c : Config) : List (List Byte) → RxHalf → RxHalf
  | [], r => r
  | ch :: chs, r => feedChunks c chs (rxFeed c ch r)

/-- The whole-buffer form of unmasking (R121): `PAY[base + i] <- PAY[base + i] ^ key[i mod 4]` for `i` = 0 to `len - 1`. -/
def unmaskBuffer (key : Vector Byte 4) (base : Nat) : Nat → List Byte → List Byte
  | 0, buf => buf
  | n + 1, buf =>
    let buf' := unmaskBuffer key base n buf
    buf'.set (base + n) (buf'.getD (base + n) 0 ^^^ key[n % 4]'(Nat.mod_lt _ (by decide)))

/-! ### write, close, close_code (R167 to R169) and draining (R170) -/

/-- What `write` or `close` leaves to do. -/
inductive SendPlan where
  /-- bytes to drain -/
  | send (bytes : List Byte)
  /-- an argument refused before any I/O -/
  | invalidArgument (reason : Reason)
  /-- a payload absent or shorter than `len`: what is then sent is not in the source (N25) -/
  | payloadShort
deriving DecidableEq, Repr

/-- `payload[0 .. len-1]`, if there are so many bytes; an absent payload has none. -/
def payloadOf (payload : Option (List Byte)) (len : Nat) : Option (List Byte) :=
  if len ≤ (payload.getD []).length then some ((payload.getD []).take len) else none

/-- `write(opcode, payload, len)`, the payload optional and the length explicit (R85, R144, R167): TX_WRITE, then the header and
the first `len` payload bytes are to be drained. DESIGN CHOICE: N25 leaves open what a payload absent or shorter than `len`
does, as the host's question; TX_WRITE, which does not look at the payload (R144), is issued all the same, and the plan is
`payloadShort`, which says nothing of what is sent (log entry 15). -/
def hostWrite (op : BitVec 4) (payload : Option (List Byte)) (len : BitVec 64) (t : TxHalf) : TxHalf × SendPlan :=
  let t' := txWrite op len t
  if validOpcode op then
    match payloadOf payload len.toNat with
    | some bytes => (t', .send (txhOut t' ++ bytes))
    | none => (t', .payloadShort)
  else (t', .invalidArgument .badOpcode)

/-- The close codes `close` accepts: 1000 to 1011, and 1015 (R168). -/
def sendableCode (code : BitVec 16) : Bool :=
  (decide (1000 ≤ code.toNat) && decide (code.toNat ≤ 1011)) || code.toNat == 1015

/-- `close(code)` (R168): the code is checked before any I/O, then sent big-endian as the payload of a Close frame. -/
def hostClose (code : BitVec 16) (t : TxHalf) : TxHalf × SendPlan :=
  if sendableCode code then hostWrite opClose (some (ext16Bytes code)) 2 t else (t, .invalidArgument .badCloseCode)

/-- `close_code(frame)` (R169): 1005 for a payload shorter than two bytes (the number is the spec's general knowledge, log
entry 12), else its first two bytes big-endian. -/
def closeCodeOf : List Byte → BitVec 16
  | b0 :: b1 :: _ => be16 b0 b1
  | _ => 1005

/-- What one channel write returned. -/
inductive ChannelWrite where
  | failed
  | wrote (n : Nat)
deriving DecidableEq, Repr

/-- The state of a drain: all bytes written, ended by a Channel failure, or bytes left and no result yet. -/
inductive DrainResult where
  | done
  | failure
  | left (bytes : List Byte)
deriving DecidableEq, Repr

/-- Draining (R170): an error, or no progress with bytes left, ends it at once; a partial write is followed by the rest. -/
def drain : List Byte → List ChannelWrite → DrainResult
  | [], _ => .done
  | b :: bs, [] => .left (b :: bs)
  | _ :: _, .failed :: _ => .failure
  | b :: bs, .wrote n :: more => if n = 0 then .failure else drain ((b :: bs).drop n) more

/-! ### The reassembler (R160 to R164) -/

/-- A logical message: the opcode of its first frame (R163, N14) and its payload. -/
structure Message where
  opcode : BitVec 4
  payload : List Byte
deriving DecidableEq, Repr

/-- The message buffer with the terminator byte after the payload, at the logical length (R160 to R162). -/
def messageBuffer (m : Message) : List Byte := m.payload ++ [Config.terminator]

/-- What the reassembler has after a wire frame. -/
inductive Assembly where
  /-- the message is complete -/
  | complete (m : Message)
  /-- more fragments are to come -/
  | more (m : Message)
  /-- a sequence the source does not cover (U13): no move -/
  | stuck
deriving DecidableEq, Repr

/-- One wire frame delivered to the reassembler (R160, R161, R163, R164). -/
def assemble (pending : Option Message) (op : BitVec 4) (fin : Bool) (payload : List Byte) : Assembly :=
  match pending with
  | none =>
    if controlOpcode op then .complete ⟨op, payload⟩
    else if op = opCont then .stuck
    else if fin then .complete ⟨op, payload⟩ else .more ⟨op, payload⟩
  | some m =>
    if op = opCont then
      if fin then .complete ⟨m.opcode, m.payload ++ payload⟩ else .more ⟨m.opcode, m.payload ++ payload⟩
    else .stuck

/-! ### read (R172) -/

/-- The host's side of one `read`: the RX half, the message so far, and the payload of the wire frame in progress. -/
structure Reader where
  rx : RxHalf
  pending : Option Message
  part : List Byte
deriving DecidableEq, Repr

/-- What one channel read returned. -/
inductive ChannelRead where
  | bytes (chunk : List Byte)
  | failed
deriving DecidableEq, Repr

/-- What one pass of the loop meets: after how many milliseconds of its wait the channel is ready (`none`: never), and what the
channel read then returns. -/
structure Pass where
  readyAfter : Option Nat
  channel : ChannelRead
deriving DecidableEq, Repr

/-- What a `read` has come to (R172). -/
inductive ReadResult where
  | inProgress (rd : Reader)
  | noFrame (rd : Reader)
  | message (m : Message) (rx : RxHalf)
  | failure (kind : FaultKind) (rx : RxHalf)
  /-- a host duty of R158 broken (a refused command, RX_START among them), a frame sequence without a rule (U13), or a wait between fragments expired (N16) -/
  | stuck (rx : RxHalf)
deriving DecidableEq, Repr

/-- The wait bound in milliseconds (R172): the caller's before the first byte of a new frame, `T_INPROGRESS_MS` once a frame has
begun. Between fragments the short bound is taken, the spec's host-model choice (N16, log entry 15). -/
def waitBound (c : Config) (timeout : Nat) (rd : Reader) : Nat :=
  if rd.rx.st = .initial ∧ rd.pending = none then timeout else c.inProgressMs

/-- Whether the wait of a pass expires. "Up to" the bound is read as including it (DESIGN CHOICE, log entry 15). -/
def waitExpires (bound : Nat) (p : Pass) : Bool :=
  match p.readyAfter with
  | some ms => decide (bound < ms)
  | none => true

/-- How many bytes the host asks the channel for (R172, R158). -/
def askSize (r : RxHalf) : Nat := if r.st = .payload then payRem r else need r

/-- The head of the loop: a completed frame goes to the reassembler, and RX_NEXT follows if more are to come. -/
def settle (rd : Reader) : ReadResult :=
  if frameDone rd.rx then
    match assemble rd.pending rd.rx.opcode rd.rx.fin rd.part with
    | .complete m => .message m rd.rx
    | .more m => .inProgress ⟨rxNext rd.rx, some m, []⟩
    | .stuck => .stuck rd.rx
  else .inProgress rd

/-- What a command's response makes of the read (R172). -/
def afterCommand (rd : Reader) : ReadResult :=
  match rd.rx.resp with
  | some .noFrame => if rd.pending = none then .noFrame rd else .stuck rd.rx
  | some (.fault kind _) => .failure kind rd.rx
  | some (.refused _) => .stuck rd.rx
  | some (.payloadData out _) => settle { rd with part := rd.part ++ out }
  | _ => settle rd

/-- The channel read of a pass: bytes are fed, no byte or an error is reported (R172). -/
def afterRead (c : Config) (ch : ChannelRead) (rd : Reader) : ReadResult :=
  match ch with
  | .bytes chunk =>
    afterCommand { rd with rx := if chunk.length = 0 then rxChfail rd.rx else rxFeed c chunk rd.rx }
  | .failed => afterCommand { rd with rx := rxChfail rd.rx }

/-- One pass of the loop (R172). Where `skipWait` holds there is no wait, so none expires. -/
def readPass (c : Config) (timeout : Nat) (skipWait : Bool) (p : Pass) (rd : Reader) : ReadResult :=
  if !skipWait && waitExpires (waitBound c timeout rd) p then afterCommand { rd with rx := rxTimeout rd.rx }
  else afterRead c p.channel rd

/-- The passes of one `read`; it returns at the first end. Only the first pass may go without its wait. -/
def readLoop (c : Config) (timeout : Nat) : Bool → List Pass → Reader → ReadResult
  | _, [], rd => .inProgress rd
  | skipWait, p :: ps, rd =>
    match readPass c timeout skipWait p rd with
    | .inProgress rd' => readLoop c timeout false ps rd'
    | .noFrame rd' => .noFrame rd'
    | .message m rx => .message m rx
    | .failure kind rx => .failure kind rx
    | .stuck rx => .stuck rx

/-- `read(timeout, already_ready)` (R172): RX_START, then the loop, whose first pass does not wait if `already_ready` is
asserted. DESIGN CHOICE: R172 has no line for an RX_START that is refused (a fault recorded, or a frame in progress, R152); the
host has then broken a duty of R158, and the read is `stuck` before its first pass, so that it never returns part of a frame as
a message (log entry 15). -/
def hostRead (c : Config) (timeout : Nat) (alreadyReady : Bool) (passes : List Pass) (r : RxHalf) : ReadResult :=
  match (rxStart r).resp with
  | some (.refused _) => .stuck (rxStart r)
  | _ => readLoop c timeout alreadyReady passes ⟨rxStart r, none, []⟩

end Sys2Proof.Machine
end

