-- ==== Sys2Proof/Safety.lean ====
section
/-! DEFINITION. What counts as a good state and a safe run, in the terms claims use: the invariants between commands
(10_state.md R33), what they need beside them to be kept by every step, the ends of a run (70_reset_and_hazards.md R223),
and which inputs a host can present. -/

namespace Sys2Proof.Safety

open Sys2Proof.Machine

/-- R33 item 3: in `Initial` the parse progress and every slot register is 0. -/
abbrev FreshSlot (r : RxHalf) : Prop :=
  r.haveBytes = 0 ∧ r.fin = false ∧ r.rsv = 0 ∧ r.opcode = 0 ∧ r.masked = false ∧ r.key = Vector.replicate 4 0 ∧
    r.declaredLength = 0 ∧ r.maxread = 0 ∧ r.payIdx = 0

/-- R33 items 1 to 4 and 6, as they hold when no fault is recorded. -/
abbrev BetweenCommands (r : RxHalf) : Prop :=
  (isHeader r.st = true → r.haveBytes.toNat < needTotal r.st) ∧
    (r.st = .payload →
      r.haveBytes = 0 ∧ r.maxread = r.declaredLength ∧ r.payIdx.toNat ≤ r.maxread.toNat ∧ r.masked = true ∧ r.rsv = 0 ∧
        validOpcode r.opcode = true) ∧
    (r.st = .initial → FreshSlot r) ∧
    r.declaredLength.toNat ≤ 2 ^ 63 - 1 ∧
    (r.st = .extendedLength16 ∨ r.st = .extendedLength64 → r.declaredLength = 0)

/-- What the parser has established by each state before `Payload`: the byte-0 checks once past `Initial`, the mask bit once
past `Length` (R14, R93, R94), and a length still 0 in `Length` (R16). -/
abbrev ParsedSoFar (r : RxHalf) : Prop :=
  (r.st ≠ .initial → r.rsv = 0 ∧ validOpcode r.opcode = true) ∧
    (r.st = .length → r.declaredLength = 0) ∧
    (r.st = .extendedLength16 ∨ r.st = .extendedLength64 ∨ r.st = .mask ∨ r.st = .payload → r.masked = true)

/-- The invariant of the RX half: `msg_total <= MAX_PAYLOAD` always (R26, R33 item 5), the rest when no fault is recorded. -/
abbrev RxInv (c : Config) (r : RxHalf) : Prop :=
  r.msgTotal.toNat ≤ c.maxPayload.toNat ∧ (r.rxFault = none → BetweenCommands r ∧ ParsedSoFar r)

/-- The close code agrees with the recorded fault (R25, R182, R189): 1002 after Protocol, 1009 after Size, none otherwise. -/
abbrev CloseCodeInv (r : RxHalf) : Prop :=
  (r.rxFault = some .protocol → r.ccValid = true ∧ r.closeCode = 1002) ∧
    (r.rxFault = some .size → r.ccValid = true ∧ r.closeCode = 1009) ∧
    (r.rxFault = none ∨ r.rxFault = some .channel → r.ccValid = false ∧ r.closeCode = 0)

/-- `txh_len` is 0, 2, 4 or 10 (R27). -/
abbrev TxInv (t : TxHalf) : Prop :=
  t.txhLen = 0 ∨ t.txhLen = 2 ∨ t.txhLen = 4 ∨ t.txhLen = 10

/-- The invariant of the block. -/
abbrev Inv (s : State) : Prop := RxInv s.config s.rx ∧ CloseCodeInv s.rx ∧ TxInv s.tx

/-- The inputs a host or a wire can present: commands of either half, bytes of RXS, the reset input (R158, R210). The other
formats of the table name what the block does inside a command. -/
def hostInput : Input → Bool
  | .reset => true
  | .rxB0 _ => true
  | .rxB1 _ => true
  | .txB0 _ => false
  | .txB1 _ => false
  | .st _ _ => false
  | .rxCmd _ _ => true
  | .txCmd _ _ _ => true

/-- The position of `st` in the strict order of R18. -/
def stRank : ParseState → Nat
  | .initial => 0
  | .length => 1
  | .extendedLength16 => 2
  | .extendedLength64 => 2
  | .mask => 3
  | .payload => 4

/-- The instructions that may bring `st` back to `Initial` (R18, R100). -/
def restarts : Instr → Bool
  | .cont _ => false
  | .text _ => false
  | .bin _ => false
  | .close _ => false
  | .ping _ => false
  | .pong _ => false
  | .len64 => false
  | .len16 => false
  | .len7 _ => false
  | .tCont => false
  | .tText => false
  | .tBin => false
  | .tClose => false
  | .tPing => false
  | .tPong => false
  | .tLen64 _ => false
  | .tLen16 _ => false
  | .tLen7 _ => false
  | .hpInitial => false
  | .hpLength => false
  | .hpExt16 => false
  | .hpExt64 => false
  | .hpMask => false
  | .umXor _ => false
  | .rxReset => true
  | .rxStart => true
  | .rxNext => true
  | .rxFeed _ => false
  | .rxChfail => false
  | .rxTimeout => false
  | .rxReserved _ => false
  | .txReset => false
  | .txWrite _ _ => false

/-- The instructions of the TX half: its two commands and the parts of TX_WRITE. -/
def isTx : Instr → Bool
  | .cont _ => false
  | .text _ => false
  | .bin _ => false
  | .close _ => false
  | .ping _ => false
  | .pong _ => false
  | .len64 => false
  | .len16 => false
  | .len7 _ => false
  | .tCont => true
  | .tText => true
  | .tBin => true
  | .tClose => true
  | .tPing => true
  | .tPong => true
  | .tLen64 _ => true
  | .tLen16 _ => true
  | .tLen7 _ => true
  | .hpInitial => false
  | .hpLength => false
  | .hpExt16 => false
  | .hpExt64 => false
  | .hpMask => false
  | .umXor _ => false
  | .rxReset => false
  | .rxStart => false
  | .rxNext => false
  | .rxFeed _ => false
  | .rxChfail => false
  | .rxTimeout => false
  | .rxReserved _ => false
  | .txReset => true
  | .txWrite _ _ => true

/-- The ends of an RX run (R223). -/
inductive RunEnd where
  | noFrame
  | completedFrame
  | failure (kind : FaultKind)
deriving DecidableEq, Repr

/-- Whether the host continues a complete frame with RX_NEXT: RX_NEXT (code 2) waits, and before it no input that takes the RX
half out of the frame, which only RX_START, RX_RESET (codes 1, 0) and the reset input do (R125). Bytes and the other RX commands
are refused there and write nothing (R190), so they end nothing; an operation of format ST stops the machine (log entry 3); what
waits for the TX half does not matter. -/
def continues : List Input → Bool
  | [] => false
  | .reset :: _ => false
  | .rxB0 _ :: rest => continues rest
  | .rxB1 _ :: rest => continues rest
  | .rxCmd code _ :: rest => code == 2 || (code != 0 && code != 1 && continues rest)
  | .txB0 _ :: rest => continues rest
  | .txB1 _ :: rest => continues rest
  | .st _ _ :: _ => false
  | .txCmd _ _ _ :: rest => continues rest

/-- Whether a response marks the last byte of a wire frame: `HeaderDone(0)` or `PayloadData(out, 0)` (R223). -/
def endsFrame : Response → Bool
  | .ok => false
  | .needMore _ => false
  | .headerDone len => len == 0
  | .payloadData _ rem => rem == 0
  | .noFrame => false
  | .fault _ _ => false
  | .refused _ => false
  | .header _ => false
  | .invalidArgument _ => false

/-- The end an RX run is at, if it is at one: for each line of R223's table, the response that marks it and the state it is
marked in. A complete frame that the host continues with RX_NEXT is none, and neither is a state in the middle of a frame
(R219), whatever its response. -/
def runEnd (s : State) : Option RunEnd :=
  match s.rx.rxFault, s.rx.resp with
  | some kind, some (.fault k _) => if k = kind then some (.failure kind) else none
  | none, some .noFrame => if s.rx.st = .initial ∧ s.rx.haveBytes = 0 then some .noFrame else none
  | none, some x => if endsFrame x && frameDone s.rx && !continues s.stream then some .completedFrame else none
  | some _, _ => none
  | none, none => none

/-- A step that stops nowhere. -/
abbrev StepsOn (s : State) : Prop := ∃ t, step s = .next t

end Sys2Proof.Safety
end

