-- ==== Sys2Proof/Certificates/Slice0/Obligations.lean ====
section
/-! DEFINITION. The statements about the block, for the provers. Each docstring names the rule or the part of spec/ it
formalises; where a clause rests on a choice of the spec that 92_eei_decisions.md marks as its own, or on a choice of the
model, it says so. Every equation `exec … = .next …` gives the whole next state, so it is a frame as well: what it does not
name is unchanged. The fields `resp`, `rxs`, `payout`, `txs` in it are the model's record of the response and of the streams (log
entries 5, 6, DESIGN CHOICE). -/

namespace Sys2Proof.Stated

open Sys2Proof.Machine

/-- The state with nothing changed but the RX half's response. -/
def answerRx (x : Response) (s : State) : State := { s with rx := { s.rx with resp := some x } }

/-- The state with nothing changed but the TX half's response. -/
def answerTx (x : Response) (s : State) : State := { s with tx := { s.tx with resp := some x } }

/-- The six valid opcodes (R71 to R77). -/
def opcodes : List (BitVec 4) := [0x0, 0x1, 0x2, 0x8, 0x9, 0xA]

/-- Byte 0 with the reserved bits 0 (R61). -/
def byte0 (fin : Bool) (op : BitVec 4) : Byte := (if fin then 0x80#8 else 0x00#8) ||| op.setWidth 8

/-- The row of format ST that `st` selects (R83, R86). -/
def operationOf (q : ParseState) (chunk : List Byte) : Instr :=
  match q with
  | .initial => .hpInitial
  | .length => .hpLength
  | .extendedLength16 => .hpExt16
  | .extendedLength64 => .hpExt64
  | .mask => .hpMask
  | .payload => .umXor chunk

/-- A chunk of `n` bytes is within PAY_CHUNK_MAX (R5). -/
def chunkAllowed (c : Config) (n : Nat) : Prop := ∀ k, c.payChunkMax = some k → n ≤ k

/-- The emitted header of R135 to R139. -/
def emitted (op : BitVec 4) (len : BitVec 64) : List Byte :=
  (0x80#8 ||| op.setWidth 8) ::
    (if len.toNat ≤ 125 then [len.setWidth 8]
     else if len.toNat ≤ 65535 then [0x7E#8, len.extractLsb' 8 8, len.extractLsb' 0 8]
     else 0x7F#8 :: (List.range 8).map fun i => len.extractLsb' (56 - 8 * i) 8)

/-- The row of format TX.B1 that the length selects (R68). -/
def formOf (len : BitVec 64) : Instr :=
  if len.toNat ≤ 125 then .tLen7 (len.setWidth 7)
  else if len.toNat ≤ 65535 then .tLen16 (len.setWidth 16)
  else .tLen64 len

/-- RX_FEED of each chunk of a list in turn. -/
def feedInTurn : List (List Byte) → State → Host.Outcome State Fault Refusal
  | [], s => .next s
  | ch :: chs, s =>
    match exec (.rxFeed ch) s with
    | .next t => feedInTurn chs t
    | .fault f => .fault f
    | .refused r => .refused r

/-- A cutting into chunks RX_FEED may carry in `Payload`: none empty, none above PAY_CHUNK_MAX. -/
def allowedCut (c : Config) (chunks : List (List Byte)) : Prop := ∀ ch ∈ chunks, ch ≠ [] ∧ chunkAllowed c ch.length

/-- The wire frames of one message delivered to the reassembler in turn. -/
def assembleAll (pending : Option Message) : List (BitVec 4 × Bool × List Byte) → Assembly
  | [] => .stuck
  | [f] => assemble pending f.1 f.2.1 f.2.2
  | f :: fs =>
    match assemble pending f.1 f.2.1 f.2.2 with
    | .more m => assembleAll (some m) fs
    | .complete m => .complete m
    | .stuck => .stuck

end Sys2Proof.Stated

open Sys2Proof Sys2Proof.Machine Sys2Proof.Safety Sys2Proof.Stated

/-! ### The operations of the RX header parser (40_rx_header_parser.md section 2) -/

/-- HP.INITIAL: fields written, reserved bits tested first, then the opcode; the state advances only without a fault. The
order of the tests and the registers left by a fault are the spec's decisions D7, D8; bit positions and opcode numbers its
general knowledge G1, G3; 1002 its G4 (log entries 12, 13). -/
def Obligations.HpInitialDecodesByteZero : Prop :=
  ∀ s : State, s.rx.rxFault = none → s.rx.st = .initial → s.rx.haveBytes = 1 →
    let b := s.rx.scratch[0]
    let w : RxHalf := { s.rx with fin := b.getLsbD 7, rsv := b.extractLsb' 4 3, opcode := b.extractLsb' 0 4 }
    exec .hpInitial s = .next { s with
     rx :=
      if b.extractLsb' 4 3 ≠ 0 then
        { w with rxFault := some .protocol, closeCode := 1002, ccValid := true,
                 resp := some (.fault .protocol .rsvNonzero) }
      else if b.extractLsb' 0 4 ∉ opcodes then
        { w with rxFault := some .protocol, closeCode := 1002, ccValid := true,
                 resp := some (.fault .protocol .badOpcode) }
      else { w with st := .length, haveBytes := 0, resp := some (.needMore 1) } }

/-- HP.LENGTH: the mask bit is tested before the length field is looked at (decision D8), `declared_length` is written for a
direct length only (decision D11); bit positions are the spec's G2. -/
def Obligations.HpLengthSelectsTheForm : Prop :=
  ∀ s : State, s.rx.rxFault = none → s.rx.st = .length → s.rx.haveBytes = 1 →
    let b := s.rx.scratch[0]
    let w : RxHalf := { s.rx with masked := b.getLsbD 7 }
    let l := b.extractLsb' 0 7
    exec .hpLength s = .next { s with
     rx :=
      if b.getLsbD 7 = false then
        { w with rxFault := some .protocol, closeCode := 1002, ccValid := true,
                 resp := some (.fault .protocol .noMask) }
      else if l = 126 then { w with st := .extendedLength16, haveBytes := 0, resp := some (.needMore 2) }
      else if l = 127 then { w with st := .extendedLength64, haveBytes := 0, resp := some (.needMore 8) }
      else { w with declaredLength := BitVec.ofNat 64 l.toNat, st := .mask, haveBytes := 0,
                    resp := some (.needMore 4) } }

/-- HP.EXT16 (R95): the big-endian length of the two bytes, zero-extended, and `Mask` next; no fault. -/
def Obligations.HpExt16ReadsBigEndian : Prop :=
  ∀ s : State, s.rx.rxFault = none → s.rx.st = .extendedLength16 → s.rx.haveBytes = 2 →
    exec .hpExt16 s = .next { s with rx :=
      { s.rx with
        declaredLength := BitVec.ofNat 64 (s.rx.scratch[0].toNat * 256 + s.rx.scratch[1].toNat)
        st := .mask, haveBytes := 0, resp := some (.needMore 4) } }

/-- HP.EXT64: the big-endian length of the eight bytes is written, and a length of 2^63 or more faults with it written
(decisions D7, D16: the register kept and the code 1009 are the spec's choice). -/
def Obligations.HpExt64RejectsTopBit : Prop :=
  ∀ s : State, s.rx.rxFault = none → s.rx.st = .extendedLength64 → s.rx.haveBytes = 8 →
    let v := s.rx.scratch[0].toNat * 2 ^ 56 + s.rx.scratch[1].toNat * 2 ^ 48 + s.rx.scratch[2].toNat * 2 ^ 40
      + s.rx.scratch[3].toNat * 2 ^ 32 + s.rx.scratch[4].toNat * 2 ^ 24 + s.rx.scratch[5].toNat * 2 ^ 16
      + s.rx.scratch[6].toNat * 2 ^ 8 + s.rx.scratch[7].toNat
    let w : RxHalf := { s.rx with declaredLength := BitVec.ofNat 64 v }
    exec .hpExt64 s = .next { s with
     rx :=
      if 2 ^ 63 ≤ v then
        { w with rxFault := some .size, closeCode := 1009, ccValid := true, resp := some (.fault .size .len63) }
      else { w with st := .mask, haveBytes := 0, resp := some (.needMore 4) } }

/-- HP.MASK with LG: the key is stored, then the exact cumulative sum is compared with MAX_PAYLOAD; a sum equal to it passes.
That the guard stands here, and its moment, are the spec's decision D14. -/
def Obligations.HpMaskGuardsTheCeiling : Prop :=
  ∀ s : State, s.rx.rxFault = none → s.rx.st = .mask → s.rx.haveBytes = 4 →
    let t := s.rx.msgTotal.toNat + s.rx.declaredLength.toNat
    let w : RxHalf :=
      { s.rx with key := #v[s.rx.scratch[0], s.rx.scratch[1], s.rx.scratch[2], s.rx.scratch[3]] }
    exec .hpMask s = .next { s with
     rx :=
      if s.config.maxPayload.toNat < t then
        { w with rxFault := some .size, closeCode := 1009, ccValid := true, resp := some (.fault .size .ceiling) }
      else
        { w with msgTotal := BitVec.ofNat 64 t, maxread := s.rx.declaredLength, payIdx := 0, st := .payload,
                 haveBytes := 0, resp := some (.headerDone s.rx.declaredLength) } }

/-- UM.XOR (R120): each byte is unmasked with the key byte of its index in the payload, `pay_idx` rises by the chunk's length
without wrapping, and the new `pay_rem` is answered. That UM.XOR presented by itself takes the chunk from RXS as RX_FEED does (R40,
R46), and the records of RXS and PAYOUT, are the model's choice (log entries 3, 6). -/
def Obligations.UmXorUnmasksTheChunk : Prop :=
  ∀ (s : State) (chunk : List Byte), s.rx.rxFault = none → s.rx.st = .payload → 1 ≤ chunk.length →
    s.rx.payIdx.toNat + chunk.length ≤ s.rx.maxread.toNat → chunkAllowed s.config chunk.length →
    ∃ (out : List Byte) (idx : BitVec 64), out.length = chunk.length ∧
      idx.toNat = s.rx.payIdx.toNat + chunk.length ∧
      (∀ (j : Nat) (h : j < chunk.length) (h' : j < out.length),
        out[j] = chunk[j] ^^^ s.rx.key[(s.rx.payIdx.toNat + j) % 4]'(Nat.mod_lt _ (Nat.succ_pos 3))) ∧
      exec (.umXor chunk) s = .next { s with rx :=
        { s.rx with payIdx := idx, rxs := s.rx.rxs ++ chunk, payout := s.rx.payout ++ out,
                    resp := some (.payloadData out (s.rx.maxread.toNat - idx.toNat)) } }

/-- Where the block does not perform an operation of format ST, the instruction stops by name (the model's choice, log entry
3; the spec's R100 lists no such transition). -/
def Obligations.OperationsStopWhereNotPerformed : Prop :=
  ∀ (s : State) (chunk : List Byte),
    (¬(s.rx.rxFault = none ∧ s.rx.st = .initial ∧ s.rx.haveBytes = 1) →
      exec .hpInitial s = .refused .operationNotPerformed) ∧
    (¬(s.rx.rxFault = none ∧ s.rx.st = .length ∧ s.rx.haveBytes = 1) →
      exec .hpLength s = .refused .operationNotPerformed) ∧
    (¬(s.rx.rxFault = none ∧ s.rx.st = .extendedLength16 ∧ s.rx.haveBytes = 2) →
      exec .hpExt16 s = .refused .operationNotPerformed) ∧
    (¬(s.rx.rxFault = none ∧ s.rx.st = .extendedLength64 ∧ s.rx.haveBytes = 8) →
      exec .hpExt64 s = .refused .operationNotPerformed) ∧
    (¬(s.rx.rxFault = none ∧ s.rx.st = .mask ∧ s.rx.haveBytes = 4) →
      exec .hpMask s = .refused .operationNotPerformed) ∧
    (¬(s.rx.rxFault = none ∧ s.rx.st = .payload ∧ 1 ≤ chunk.length ∧
        s.rx.payIdx.toNat + chunk.length ≤ s.rx.maxread.toNat ∧ chunkAllowed s.config chunk.length) →
      exec (.umXor chunk) s = .refused .operationNotPerformed)

/-! ### RX_FEED (40_rx_header_parser.md section 1) -/

/-- Byte accounting (R91): an accepted header chunk goes to `scratch[have]` upward and `have` rises by its length; then the
command answers NeedMore, or performs the operation of `st`. The chunk is consumed (R40, R46); the record of RXS it goes to is the
model's choice (log entry 6). -/
def Obligations.RxFeedAccountsHeaderBytes : Prop :=
  ∀ (s : State) (chunk : List Byte), s.rx.rxFault = none → s.rx.st ≠ .payload → 1 ≤ chunk.length →
    s.rx.haveBytes.toNat + chunk.length ≤ needTotal s.rx.st →
    ∃ (f : Vector Byte 8) (n : BitVec 4),
      (∀ (i : Nat) (hi : i < 8), f[i] =
        if s.rx.haveBytes.toNat ≤ i ∧ i < s.rx.haveBytes.toNat + chunk.length
        then chunk.getD (i - s.rx.haveBytes.toNat) 0 else s.rx.scratch[i]) ∧
      n.toNat = s.rx.haveBytes.toNat + chunk.length ∧
      (n.toNat < needTotal s.rx.st →
        exec (.rxFeed chunk) s = .next { s with rx :=
          { s.rx with scratch := f, haveBytes := n, rxs := s.rx.rxs ++ chunk,
                      resp := some (.needMore (needTotal s.rx.st - n.toNat)) } }) ∧
      (n.toNat = needTotal s.rx.st →
        exec (.rxFeed chunk) s =
          exec (operationOf s.rx.st chunk)
            { s with rx := { s.rx with scratch := f, haveBytes := n, rxs := s.rx.rxs ++ chunk } })

/-- The examination of RX_FEED in the spec's order: a recorded fault, a complete frame, an empty chunk, a chunk too long for
the header state or for the payload (decisions D6, D9, D10, D20, D13), and in `Payload` otherwise UM.XOR. Each line holds
only where no line before it does. -/
def Obligations.RxFeedExaminesInOrder : Prop :=
  ∀ (s : State) (chunk : List Byte),
    (s.rx.rxFault ≠ none → exec (.rxFeed chunk) s = .next (answerRx (.refused .faulted) s)) ∧
    (s.rx.rxFault = none → s.rx.st = .payload → s.rx.payIdx = s.rx.maxread →
      exec (.rxFeed chunk) s = .next (answerRx (.refused .frameComplete) s)) ∧
    (s.rx.rxFault = none → ¬(s.rx.st = .payload ∧ s.rx.payIdx = s.rx.maxread) → chunk = [] →
      exec (.rxFeed chunk) s = exec .rxChfail s) ∧
    (s.rx.rxFault = none → s.rx.st ≠ .payload → chunk ≠ [] →
      needTotal s.rx.st - s.rx.haveBytes.toNat < chunk.length →
      exec (.rxFeed chunk) s = .next (answerRx (.refused .overfeed) s)) ∧
    (s.rx.rxFault = none → s.rx.st = .payload → s.rx.payIdx ≠ s.rx.maxread → chunk ≠ [] →
      (s.rx.maxread.toNat - s.rx.payIdx.toNat < chunk.length ∨ ¬chunkAllowed s.config chunk.length) →
      exec (.rxFeed chunk) s = .next (answerRx (.refused .overfeed) s)) ∧
    (s.rx.rxFault = none → s.rx.st = .payload → 1 ≤ chunk.length →
      s.rx.payIdx.toNat + chunk.length ≤ s.rx.maxread.toNat → chunkAllowed s.config chunk.length →
      exec (.rxFeed chunk) s = exec (.umXor chunk) s)

/-- Chunking independence of a header field: two chunks in a row leave the same state and the same final response as their
join (40_rx_header_parser.md section 3, "Chunking independence"). -/
def Obligations.HeaderChunksJoin : Prop :=
  ∀ (s : State) (a b : List Byte), s.rx.rxFault = none → s.rx.st ≠ .payload → a ≠ [] → b ≠ [] →
    s.rx.haveBytes.toNat + a.length + b.length ≤ needTotal s.rx.st →
    ∃ t u, exec (.rxFeed a) s = .next t ∧ exec (.rxFeed b) t = .next u ∧ exec (.rxFeed (a ++ b)) s = .next u

/-- Chunking independence of the payload: the same registers and the same joined output; only the last response differs
(41_rx_unmasker.md section 2). -/
def Obligations.PayloadChunksJoin : Prop :=
  ∀ (s : State) (a b : List Byte), s.rx.rxFault = none → s.rx.st = .payload → a ≠ [] → b ≠ [] →
    s.rx.payIdx.toNat + a.length + b.length ≤ s.rx.maxread.toNat → chunkAllowed s.config (a.length + b.length) →
    ∃ t u v, exec (.rxFeed a) s = .next t ∧ exec (.rxFeed b) t = .next u ∧ exec (.rxFeed (a ++ b)) s = .next v ∧
      { u.rx with resp := v.rx.resp } = v.rx ∧
      ∃ out₁ out₂ r₁ r₂, t.rx.resp = some (.payloadData out₁ r₁) ∧ u.rx.resp = some (.payloadData out₂ r₂) ∧
        v.rx.resp = some (.payloadData (out₁ ++ out₂) r₂)

/-- Every cutting of a payload, or of the part of it still to come, into chunks within PAY_CHUNK_MAX gives the same joined output
and leaves the same registers; the last response is that of the last chunk (41_rx_unmasker.md section 2; the records of RXS and
PAYOUT are log entry 6). Feeding by commands is feeding the RX half by `feedChunks`. -/
def Obligations.EveryCuttingOfThePayloadAgrees : Prop :=
  ∀ (s : State) (chunks : List (List Byte)) (last : List Byte), s.rx.rxFault = none → s.rx.st = .payload →
    allowedCut s.config (chunks ++ [last]) →
    s.rx.payIdx.toNat + (chunks ++ [last]).flatten.length ≤ s.rx.maxread.toNat →
    ∃ (t : State) (idx : BitVec 64) (early out : List Byte),
      feedInTurn (chunks ++ [last]) s = .next t ∧ t.rx = feedChunks s.config (chunks ++ [last]) s.rx ∧
      idx.toNat = s.rx.payIdx.toNat + (chunks ++ [last]).flatten.length ∧ out.length = last.length ∧
      early ++ out = xorFrom s.rx.key s.rx.payIdx.toNat (chunks ++ [last]).flatten ∧
      t = { s with rx :=
        { s.rx with payIdx := idx, rxs := s.rx.rxs ++ (chunks ++ [last]).flatten, payout := s.rx.payout ++ (early ++ out)
                    resp := some (.payloadData out (s.rx.maxread.toNat - idx.toNat)) } }

/-! ### The wire forms of header bytes 0 and 1 (30_encoding.md sections 1, 2, 4) -/

/-- The six forms of byte 0. In `Initial` each writes FIN, clear reserved bits and its opcode, and asks for byte 1; in every
state the form is RX_FEED of its byte (the model's reading of a wire form as an instruction, log entry 2). -/
def Obligations.ByteZeroFormsStartTheFrame : Prop :=
  ∀ (s : State) (fin : Bool),
    ∀ p ∈ [(Instr.cont fin, 0x0#4), (.text fin, 0x1#4), (.bin fin, 0x2#4), (.close fin, 0x8#4), (.ping fin, 0x9#4),
        (.pong fin, 0xA#4)],
      exec p.1 s = exec (.rxFeed [byte0 fin p.2]) s ∧
      (s.rx.rxFault = none → s.rx.st = .initial → s.rx.haveBytes = 0 →
        exec p.1 s = .next { s with rx :=
          { s.rx with
            fin := fin, rsv := 0, opcode := p.2, scratch := s.rx.scratch.set 0 (byte0 fin p.2)
            st := .length, haveBytes := 0, rxs := s.rx.rxs ++ [byte0 fin p.2], resp := some (.needMore 1) } })

/-- The three forms of byte 1 in `Length`, and in every state as RX_FEED of the byte (log entry 2). -/
def Obligations.ByteOneFormsSelectTheLength : Prop :=
  ∀ (s : State) (l : BitVec 7),
    exec .len64 s = exec (.rxFeed [0xFF]) s ∧ exec .len16 s = exec (.rxFeed [0xFE]) s ∧
    exec (.len7 l) s = exec (.rxFeed [0x80#8 ||| l.setWidth 8]) s ∧
    (s.rx.rxFault = none → s.rx.st = .length → s.rx.haveBytes = 0 →
      exec .len64 s = .next { s with rx :=
        { s.rx with masked := true, scratch := s.rx.scratch.set 0 0xFF, st := .extendedLength64, haveBytes := 0,
                    rxs := s.rx.rxs ++ [0xFF], resp := some (.needMore 8) } } ∧
      exec .len16 s = .next { s with rx :=
        { s.rx with masked := true, scratch := s.rx.scratch.set 0 0xFE, st := .extendedLength16, haveBytes := 0,
                    rxs := s.rx.rxs ++ [0xFE], resp := some (.needMore 2) } } ∧
      (l.toNat ≤ 125 → exec (.len7 l) s = .next { s with rx :=
        { s.rx with masked := true, declaredLength := BitVec.ofNat 64 l.toNat
                    scratch := s.rx.scratch.set 0 (0x80#8 ||| l.setWidth 8), st := .mask, haveBytes := 0
                    rxs := s.rx.rxs ++ [0x80#8 ||| l.setWidth 8], resp := some (.needMore 4) } }))

/-- Every byte 0 is a row of the table, or faults with the reason the decoder names: the parser and the decoder agree
(30_encoding.md section 5). -/
def Obligations.ParserAgreesWithTableOnByteZero : Prop :=
  ∀ (s : State) (b : Byte), s.rx.rxFault = none → s.rx.st = .initial → s.rx.haveBytes = 0 →
    ∃ t, exec (.rxFeed [b]) s = .next t ∧
      ((∃ i, decode (.rxB0 b) = .ok i ∧ exec i s = .next t ∧ t.rx.st = .length ∧ t.rx.rxFault = none) ∨
       (decode (.rxB0 b) = .error .rsvNonzero ∧ t.rx.st = .initial ∧ t.rx.rxFault = some .protocol ∧
         t.rx.resp = some (.fault .protocol .rsvNonzero)) ∨
       (decode (.rxB0 b) = .error .badOpcode ∧ t.rx.st = .initial ∧ t.rx.rxFault = some .protocol ∧
         t.rx.resp = some (.fault .protocol .badOpcode)))

/-- The same for byte 1, whatever `ROLE` is (decision D27). -/
def Obligations.ParserAgreesWithTableOnByteOne : Prop :=
  ∀ (s : State) (b : Byte), s.rx.rxFault = none → s.rx.st = .length → s.rx.haveBytes = 0 →
    ∃ t, exec (.rxFeed [b]) s = .next t ∧
      ((∃ i, decode (.rxB1 b) = .ok i ∧ exec i s = .next t ∧ t.rx.masked = true ∧ t.rx.rxFault = none ∧
          t.rx.st = if b = 0xFF then .extendedLength64 else if b = 0xFE then .extendedLength16 else .mask) ∨
       (decode (.rxB1 b) = .error .noMask ∧ t.rx.st = .length ∧ t.rx.rxFault = some .protocol ∧
         t.rx.resp = some (.fault .protocol .noMask)))

/-! ### The other commands of the RX half (43_host_interface.md section 1) -/

/-- RX_RESET is never refused and writes every register of the RX half (the zeros are the spec's decision D5). -/
def Obligations.RxResetClearsTheHalf : Prop :=
  ∀ s : State, exec .rxReset s = .next { s with rx :=
    { s.rx with
      st := .initial, haveBytes := 0, fin := false, rsv := 0, opcode := 0, masked := false
      key := #v[0, 0, 0, 0], scratch := #v[0, 0, 0, 0, 0, 0, 0, 0], declaredLength := 0, maxread := 0, payIdx := 0
      msgTotal := 0, rxFault := none, ccValid := false, closeCode := 0, resp := some .ok } }

/-- RX_START and RX_NEXT in `Initial` or after a complete frame: the slot and `scratch` are cleared, the fault status is not
touched, and `msg_total` is cleared by RX_START and kept by RX_NEXT (decisions D21, D22). -/
def Obligations.RxStartAndNextClearTheSlot : Prop :=
  ∀ s : State, s.rx.rxFault = none → (s.rx.st = .initial ∨ (s.rx.st = .payload ∧ s.rx.payIdx = s.rx.maxread)) →
    let w : RxHalf :=
      { s.rx with
        st := .initial, haveBytes := 0, fin := false, rsv := 0, opcode := 0, masked := false
        key := #v[0, 0, 0, 0], scratch := #v[0, 0, 0, 0, 0, 0, 0, 0], declaredLength := 0, maxread := 0, payIdx := 0
        resp := some .ok }
    exec .rxStart s = .next { s with rx := { w with msgTotal := 0 } } ∧ exec .rxNext s = .next { s with rx := w }

/-- RX_START and RX_NEXT write nothing but the answer when a fault is recorded, and in the middle of a frame (decisions D6,
D21). -/
def Obligations.RxStartAndNextTurnedAway : Prop :=
  ∀ s : State,
    (s.rx.rxFault ≠ none →
      exec .rxStart s = .next (answerRx (.refused .faulted) s) ∧
        exec .rxNext s = .next (answerRx (.refused .faulted) s)) ∧
    (s.rx.rxFault = none → s.rx.st ≠ .initial → ¬(s.rx.st = .payload ∧ s.rx.payIdx = s.rx.maxread) →
      exec .rxStart s = .next (answerRx (.refused .frameInProgress) s) ∧
        exec .rxNext s = .next (answerRx (.refused .frameInProgress) s))

/-- RX_CHFAIL: a Channel fault in `Initial` and in the middle of a payload, which leaves the close code; a Protocol fault
while a header is partly parsed. The kind in `Payload` is the spec's decision D18, the kept code its D17. -/
def Obligations.RxChfailFaultsByState : Prop :=
  ∀ s : State, exec .rxChfail s = .next
    (if s.rx.rxFault ≠ none then answerRx (.refused .faulted) s
     else if s.rx.st = .payload ∧ s.rx.payIdx = s.rx.maxread then answerRx (.refused .frameComplete) s
     else if s.rx.st = .initial ∨ s.rx.st = .payload then
       { s with rx := { s.rx with rxFault := some .channel, resp := some (.fault .channel .readFailed) } }
     else
       { s with rx := { s.rx with rxFault := some .protocol, closeCode := 1002, ccValid := true
                                  resp := some (.fault .protocol .partialHeader) } })

/-- RX_TIMEOUT: NoFrame with nothing written in `Initial`, a Protocol fault once a frame has begun, `Payload` included
(decision D19). -/
def Obligations.RxTimeoutFaultsOnceBegun : Prop :=
  ∀ s : State, exec .rxTimeout s = .next
    (if s.rx.rxFault ≠ none then answerRx (.refused .faulted) s
     else if s.rx.st = .payload ∧ s.rx.payIdx = s.rx.maxread then answerRx (.refused .frameComplete) s
     else if s.rx.st = .initial then answerRx .noFrame s
     else
       { s with rx := { s.rx with rxFault := some .protocol, closeCode := 1002, ccValid := true
                                  resp := some (.fault .protocol .inProgressTimeout) } })

/-- The reserved RX command codes 6 and 7 answer Refused(BadCommand) and write nothing (decisions D2, D33); that they do so with a
fault recorded too, where D6 might have Faulted, is the model's choice (log entry 19). -/
def Obligations.ReservedCodesAnswerBadCommand : Prop :=
  ∀ (s : State) (low : BitVec 1), exec (.rxReserved low) s = .next (answerRx (.refused .badCommand) s)

/-- R125: UM.XOR never changes `st`, and a complete frame accepts only RX_START, RX_NEXT and RX_RESET: every other RX command,
the reserved codes among them, is refused and writes nothing but its answer. -/
def Obligations.CompleteFrameAcceptsOnlyRestarts : Prop :=
  (∀ (s t : State) (chunk : List Byte), exec (.umXor chunk) s = .next t → t.rx.st = s.rx.st) ∧
  ∀ (s : State) (chunk : List Byte) (low : BitVec 1),
    s.rx.rxFault = none → s.rx.st = .payload → s.rx.payIdx = s.rx.maxread →
    (∀ i ∈ [Instr.rxFeed chunk, .rxChfail, .rxTimeout, .rxReserved low],
      ∃ w, exec i s = .next (answerRx (.refused w) s)) ∧
    ∀ i ∈ [Instr.rxStart, .rxNext, .rxReset], ∃ t, exec i s = .next t ∧ t.rx.st = .initial ∧ t.rx.resp = some .ok

/-- A zero-length payload is complete as soon as HP.MASK is, and every RX_FEED after it is refused (41_rx_unmasker.md, "Zero-
length payload"). -/
def Obligations.ZeroLengthFrameIsCompleteAtOnce : Prop :=
  ∀ (s : State) (chunk : List Byte), s.rx.rxFault = none → s.rx.st = .mask → s.rx.haveBytes = 4 →
    s.rx.declaredLength = 0 → s.rx.msgTotal.toNat ≤ s.config.maxPayload.toNat →
    ∃ t, exec .hpMask s = .next t ∧ t.rx.st = .payload ∧ frameDone t.rx = true ∧ t.rx.msgTotal = s.rx.msgTotal ∧
      t.rx.resp = some (.headerDone 0) ∧
      exec (.rxFeed chunk) t = .next (answerRx (.refused .frameComplete) t)

/-! ### The TX half (42_tx_header_writer.md) -/

/-- TX_WRITE of a valid opcode answers the header in the shortest form, leaves it in `txh` over the old bytes and gives it
out on TXS (the record of it is the model's, log entry 6); a length of 2^63 or more is emitted as given (decision D24). -/
def Obligations.TxWriteBuildsTheHeader : Prop :=
  ∀ (s : State) (op : BitVec 4) (len : BitVec 64), op ∈ opcodes →
    ∃ f : Vector Byte 10,
      (∀ (i : Nat) (hi : i < 10), f[i] = (emitted op len).getD i s.tx.txh[i]) ∧
      exec (.txWrite op len) s = .next { s with tx :=
        { s.tx with txh := f, txhLen := if len.toNat ≤ 125 then 2 else if len.toNat ≤ 65535 then 4 else 10
                    resp := some (.header (emitted op len)), txs := s.tx.txs ++ emitted op len } }

/-- TX_WRITE of an invalid opcode answers InvalidArgument, writes no register and emits nothing (decision D25: nothing sticky
either). -/
def Obligations.TxWriteRejectsInvalidOpcode : Prop :=
  ∀ (s : State) (op : BitVec 4) (len : BitVec 64), op ∉ opcodes →
    exec (.txWrite op len) s = .next (answerTx (.invalidArgument .badOpcode) s)

/-- TX_RESET is never refused and clears the TX half (decision D23). -/
def Obligations.TxResetClearsTheHalf : Prop :=
  ∀ s : State, exec .txReset s = .next { s with tx :=
    { s.tx with txh := #v[0, 0, 0, 0, 0, 0, 0, 0, 0, 0], txhLen := 0, resp := some .ok } }

/-- Byte 0 of an emitted header: `txh[0] = 0x80 | op`; 0x80, 0x81, 0x82, 0x88, 0x89, 0x8A. That a row of TX.B0 executed by itself
writes this byte and nothing else, answers nothing and gives nothing out is the model's choice (log entry 4). -/
def Obligations.EmittedByteZero : Prop :=
  ∀ s : State,
    ∀ p ∈ [(Instr.tCont, 0x0#4, 0x80#8), (.tText, 0x1#4, 0x81#8), (.tBin, 0x2#4, 0x82#8), (.tClose, 0x8#4, 0x88#8),
        (.tPing, 0x9#4, 0x89#8), (.tPong, 0xA#4, 0x8A#8)],
      p.2.2 = 0x80#8 ||| p.2.1.setWidth 8 ∧
      exec p.1 s = .next { s with tx := { s.tx with txh := s.tx.txh.set 0 p.2.2 } }

/-- The forms HW.LEN7 and HW.LEN16: byte 1, the two big-endian bytes, `txh_len`; the bytes above keep their old values. That a row
of TX.B1 executed by itself answers nothing and gives nothing out is the model's choice (log entry 4). -/
def Obligations.EmittedShortLengths : Prop :=
  ∀ s : State,
    (∀ len : BitVec 7, len.toNat ≤ 125 → exec (.tLen7 len) s = .next { s with tx :=
      { s.tx with txh := s.tx.txh.set 1 (BitVec.ofNat 8 len.toNat), txhLen := 2 } }) ∧
    (∀ len : BitVec 16, exec (.tLen16 len) s = .next { s with tx :=
      { s.tx with
        txh := ((s.tx.txh.set 1 0x7E).set 2 (BitVec.ofNat 8 (len.toNat / 256))).set 3 (BitVec.ofNat 8 len.toNat)
        txhLen := 4 } })

/-- The form HW.LEN64: byte 1 = 0x7F and the eight big-endian bytes, the top bit untested (decision D24). That the row executed by
itself answers nothing, gives nothing out and keeps `txh[0]` is the model's choice (log entry 4). -/
def Obligations.EmittedLongLength : Prop :=
  ∀ (s : State) (len : BitVec 64),
    ∃ f : Vector Byte 10,
      f[0] = s.tx.txh[0] ∧ f[1] = 0x7F ∧
      (∀ (i : Nat) (hi : i < 8), f[2 + i] = BitVec.ofNat 8 (len.toNat / 2 ^ (56 - 8 * i))) ∧
      exec (.tLen64 len) s = .next { s with tx := { s.tx with txh := f, txhLen := 10 } }

/-- TX_WRITE is byte 0 and then the form its length selects: the rows of formats TX.B0 and TX.B1 one after the other leave
the same `txh` and `txh_len` (30_encoding.md R68, 42_tx_header_writer.md section 1). -/
def Obligations.TxWriteIsByteZeroThenForm : Prop :=
  ∀ (s : State) (len : BitVec 64),
    ∀ p ∈ [(Instr.tCont, 0x0#4), (.tText, 0x1#4), (.tBin, 0x2#4), (.tClose, 0x8#4), (.tPing, 0x9#4), (.tPong, 0xA#4)],
      ∃ t u v, exec p.1 s = .next t ∧ exec (formOf len) t = .next u ∧ exec (.txWrite p.2 len) s = .next v ∧
        v.tx.txh = u.tx.txh ∧ v.tx.txhLen = u.tx.txhLen ∧ v.tx.resp = some (.header (txhOut u.tx))

/-- The map from a valid opcode and a length to the header bytes is injective (42_tx_header_writer.md, "Shortest form and
injectivity"). -/
def Obligations.EmittedHeaderIsInjective : Prop :=
  ∀ (s s' t t' : State) (op op' : BitVec 4) (len len' : BitVec 64), op ∈ opcodes → op' ∈ opcodes →
    exec (.txWrite op len) s = .next t → exec (.txWrite op' len') s' = .next t' → t.tx.resp = t'.tx.resp →
    op = op' ∧ len = len'

/-- TX_WRITE with the same arguments gives the same header every time (20_memory.md, "Atomicity and side effects"). -/
def Obligations.TxWriteIsIdempotent : Prop :=
  ∀ (s : State) (op : BitVec 4) (len : BitVec 64),
    ∃ t u, exec (.txWrite op len) s = .next t ∧ exec (.txWrite op len) t = .next u ∧ u.rx = t.rx ∧
      u.tx.txh = t.tx.txh ∧ u.tx.txhLen = t.tx.txhLen ∧ u.tx.resp = t.tx.resp

/-- A header the writer emits, fed to a receiver at a frame boundary without a masking stage, faults at its second byte with
Protocol(NoMask), whatever `ROLE` is (42_tx_header_writer.md, "No mask"; 70_reset_and_hazards.md, hazards; D28). -/
def Obligations.UnmaskedLoopbackFaults : Prop :=
  ∀ (s r : State) (op : BitVec 4) (len : BitVec 64), op ∈ opcodes →
    r.rx.rxFault = none → r.rx.st = .initial → r.rx.haveBytes = 0 →
    ∃ (t : State) (b0 b1 : Byte) (rest : List Byte) (u v : State),
      exec (.txWrite op len) s = .next t ∧ t.tx.resp = some (.header (b0 :: b1 :: rest)) ∧
      exec (.rxFeed [b0]) r = .next u ∧ u.rx.rxFault = none ∧ exec (.rxFeed [b1]) u = .next v ∧
      v.rx.rxFault = some .protocol ∧ v.rx.closeCode = 1002 ∧ v.rx.resp = some (.fault .protocol .noMask)

/-! ### Fetching and decoding (30_encoding.md section 8; the input stream is the model's, log entry 1) -/

/-- A step takes the oldest waiting input and executes the instruction it decodes to; with none waiting the block keeps all
its state; the reset input resets; a byte of RXS that is no row is fed like any other; the other formats hold no such
word, and one presented stops by name. The stream of waiting inputs is the model's choice (log entry 1), so is the reset as an
input in it (log entry 9); the stop is the model's deduction (log entry 11). -/
def Obligations.StepRunsTheDecodedInstruction : Prop :=
  ∀ s : State,
    (s.stream = [] → step s = .next s) ∧
    (∀ i rest instr, s.stream = i :: rest → decode i = .ok instr → step s = exec instr { s with stream := rest }) ∧
    (∀ rest, s.stream = .reset :: rest → step s = .next (hardReset { s with stream := rest })) ∧
    (∀ b e rest, s.stream = .rxB0 b :: rest → decode (.rxB0 b) = .error e →
      step s = exec (.rxFeed [b]) { s with stream := rest }) ∧
    (∀ b e rest, s.stream = .rxB1 b :: rest → decode (.rxB1 b) = .error e →
      step s = exec (.rxFeed [b]) { s with stream := rest }) ∧
    (∀ i e rest, s.stream = i :: rest → decode i = .error e → hostInput i = false → step s = .refused .noSuchEncoding)

/-- Words of each format written out from 30_encoding.md and 95_test_vectors.md decode to their rows. -/
def Obligations.KnownWordsDecode : Prop :=
  decode (.rxB0 0b10000001) = .ok (.text true) ∧ decode (.rxB0 0b00001000) = .ok (.close false) ∧
  decode (.rxB0 0b11000001) = .error .rsvNonzero ∧ decode (.rxB0 0b10000011) = .error .badOpcode ∧
  decode (.rxB1 0b10000101) = .ok (.len7 5) ∧ decode (.rxB1 0b11111110) = .ok .len16 ∧
  decode (.rxB1 0b01111110) = .error .noMask ∧ decode (.txB0 0b10001010) = .ok .tPong ∧
  decode (.txB1 [0b01111110, 0x01, 0x00]) = .ok (.tLen16 256) ∧ decode (.txB1 [0b01111101]) = .ok (.tLen7 125) ∧
  decode (.st 0b100 []) = .ok .hpMask ∧ decode (.st 0b110 []) = .error .unusedState ∧
  decode (.rxCmd 0b111 []) = .ok (.rxReserved 1) ∧ decode (.txCmd 0b1 0x2 126) = .ok (.txWrite 2 126)

/-- Decoding the encoding of a well-formed instruction gives it back, every operand at every value it admits. -/
def Obligations.DecodeOfEncode : Prop :=
  ∀ i : Instr, i.wellFormed = true → decode (encode i) = .ok i

/-- Where a wire byte decodes, encoding its instruction gives the byte back: each wire word has one meaning in its format. -/
def Obligations.EncodeOfDecodedWireWord : Prop :=
  (∀ (b : Byte) (i : Instr), decode (.rxB0 b) = .ok i → encode i = .rxB0 b) ∧
  (∀ (b : Byte) (i : Instr), decode (.rxB1 b) = .ok i → encode i = .rxB1 b) ∧
  (∀ (b : Byte) (i : Instr), decode (.txB0 b) = .ok i → encode i = .txB0 b) ∧
  (∀ (bytes : List Byte) (i : Instr), decode (.txB1 bytes) = .ok i → encode i = .txB1 bytes)

/-- What decodes is well-formed. -/
def Obligations.DecodedIsWellFormed : Prop :=
  ∀ (x : Input) (i : Instr), decode x = .ok i → i.wellFormed = true

/-! ### Rules of the whole machine -/

/-- The invariant holds at reset, under every configuration (10_state.md sections 7, 8). -/
def Obligations.InvariantAtReset : Prop :=
  ∀ c : Config, Inv { State.reset with config := c }

/-- Every step keeps the invariant: the invariants between commands of 10_state.md section 7, `msg_total <= MAX_PAYLOAD`, a
close code that agrees with the recorded fault, and `txh_len` in 0, 2, 4, 10. -/
def Obligations.StepKeepsTheInvariant : Prop :=
  ∀ s t : State, Inv s → step s = .next t → Inv t

/-- In a header state with no fault recorded, the block asks for at least one byte and never for more than the scratch buffer
has room for (10_state.md R22). -/
def Obligations.NeedFitsTheScratchBuffer : Prop :=
  ∀ s : State, Inv s → s.rx.rxFault = none → s.rx.st ≠ .payload →
    1 ≤ need s.rx ∧ need s.rx + s.rx.haveBytes.toNat ≤ 8

/-- No input a host or a wire can present ever stops the machine. -/
def Obligations.HostInputsNeverStop : Prop :=
  ∀ s : State, (∀ i ∈ s.stream, hostInput i = true) →
    ∃ t, step s = .next t ∧ ∀ i ∈ t.stream, hostInput i = true

/-- An instruction touches one half only: the configuration and the waiting inputs are unchanged, and so is every register of
the other half (20_memory.md section 6, 10_state.md header). -/
def Obligations.InstructionsTouchOneHalf : Prop :=
  ∀ (i : Instr) (s t : State), exec i s = .next t →
    t.config = s.config ∧ t.stream = s.stream ∧ (isTx i = true → t.rx = s.rx) ∧ (isTx i = false → t.tx = s.tx)

/-- What an RX instruction does depends on nothing of the TX half or of the waiting inputs. -/
def Obligations.RxHalfIgnoresTxHalf : Prop :=
  ∀ (i : Instr) (s s' t : State), isTx i = false → s.rx = s'.rx → s.config = s'.config → exec i s = .next t →
    ∃ t', exec i s' = .next t' ∧ t'.rx = t.rx

/-- Instructions of the two halves commute: either order gives the same state (20_memory.md section 6, D37). -/
def Obligations.HalvesCommute : Prop :=
  ∀ (i j : Instr) (s : State), isTx i = false → isTx j = true →
    (∀ t, exec i s = .next t → ∃ u v, exec j t = .next u ∧ exec j s = .next v ∧ exec i v = .next u) ∧
    (∀ v u, exec j s = .next v → exec i v = .next u → ∃ t, exec i s = .next t ∧ exec j t = .next u)

/-- The transitions of `st` are those of the table in 40_rx_header_parser.md section 3, and `have` is 0 after each: no
transition moves backward but by RX_START, RX_NEXT, RX_RESET. -/
def Obligations.ParserNeverMovesBackward : Prop :=
  ∀ (i : Instr) (s t : State), exec i s = .next t →
    t.rx.st = s.rx.st ∨
    (t.rx.haveBytes = 0 ∧ (s.rx.st, t.rx.st) ∈
      [(ParseState.initial, ParseState.length), (.length, .mask), (.length, .extendedLength16),
       (.length, .extendedLength64), (.extendedLength16, .mask), (.extendedLength64, .mask), (.mask, .payload)]) ∨
    (restarts i = true ∧ t.rx.st = .initial ∧ t.rx.haveBytes = 0)

/-- What taking a fault writes, whichever instruction raises it: the kind, the close code of the kind, the response; `st`,
`msg_total`, `maxread` and `pay_idx` are as they were, and nothing is given out (60_exceptions.md section 4; D7, D17). Of `have` it
says nothing: a fault inside RX_FEED comes after the bytes were counted (R91). -/
def Obligations.FaultEntryWritesTheCloseCode : Prop :=
  ∀ (i : Instr) (s t : State) (k : FaultKind), exec i s = .next t → s.rx.rxFault = none → t.rx.rxFault = some k →
    t.rx.st = s.rx.st ∧ t.rx.msgTotal = s.rx.msgTotal ∧ t.rx.maxread = s.rx.maxread ∧ t.rx.payIdx = s.rx.payIdx ∧
      t.rx.payout = s.rx.payout ∧ (∃ w, t.rx.resp = some (.fault k w)) ∧
      match k with
      | .protocol => t.rx.ccValid = true ∧ t.rx.closeCode = 1002
      | .size => t.rx.ccValid = true ∧ t.rx.closeCode = 1009
      | .channel => t.rx.ccValid = s.rx.ccValid ∧ t.rx.closeCode = s.rx.closeCode

/-- While a fault is recorded only RX_RESET changes the RX half; every other instruction leaves all of it but the response,
so faults do not nest and the close code stays the first fault's (60_exceptions.md section 5; D6). -/
def Obligations.FaultIsStickyUntilReset : Prop :=
  ∀ (i : Instr) (s t : State) (k : FaultKind), s.rx.rxFault = some k → exec i s = .next t → i ≠ .rxReset →
    { t.rx with resp := s.rx.resp } = s.rx

/-- A refused command writes no state and consumes nothing (60_exceptions.md section 5, "Refusals"; 20_memory.md). -/
def Obligations.RefusedCommandChangesNothing : Prop :=
  ∀ (i : Instr) (s t : State) (w : RefuseReason), exec i s = .next t → t.rx.resp = some (.refused w) →
    { t.rx with resp := s.rx.resp } = s.rx

/-- The block never takes more bytes than the state needs: in a header state at most `need` and none of the payload, in
`Payload` at most `pay_rem` (20_memory.md section 9; the records of RXS and PAYOUT are the model's, log entry 6). -/
def Obligations.NeverReadsAhead : Prop :=
  ∀ (s t : State) (chunk : List Byte), exec (.rxFeed chunk) s = .next t →
    (t.rx.rxs = s.rx.rxs ∧ t.rx.payout = s.rx.payout) ∨
    (t.rx.rxs = s.rx.rxs ++ chunk ∧
      ((s.rx.st ≠ .payload ∧ chunk.length ≤ need s.rx ∧ chunk.length ≤ 8 ∧ t.rx.payout = s.rx.payout) ∨
       (s.rx.st = .payload ∧ chunk.length ≤ payRem s.rx ∧ payRem t.rx + chunk.length = payRem s.rx ∧
         t.rx.payout.length = s.rx.payout.length + chunk.length)))

/-- The hardware reset leaves the registers RX_RESET and TX_RESET leave, keeps the configuration, and leaves a block in which
a first RX_START changes nothing but the response (70_reset_and_hazards.md section 1; D5, D23; that no response is held
is the model's choice, log entry 9). -/
def Obligations.ResetEqualsBothResets : Prop :=
  ∀ (s t u : State), exec .rxReset s = .next t → exec .txReset t = .next u →
    hardReset s = { u with rx := { u.rx with resp := none }, tx := { u.tx with resp := none } } ∧
    (hardReset s).config = s.config ∧
    exec .rxStart (hardReset s) = .next (answerRx .ok (hardReset s))

/-! ### Laws of the unmasker (41_rx_unmasker.md section 2) -/

/-- Unmasking is its own inverse: the output of UM.XOR, unmasked from the same state, is the chunk again. -/
def Obligations.UnmaskingIsAnInvolution : Prop :=
  ∀ (s : State) (chunk : List Byte), s.rx.rxFault = none → s.rx.st = .payload → 1 ≤ chunk.length →
    s.rx.payIdx.toNat + chunk.length ≤ s.rx.maxread.toNat → chunkAllowed s.config chunk.length →
    ∃ t t' out r, exec (.umXor chunk) s = .next t ∧ t.rx.resp = some (.payloadData out r) ∧
      exec (.umXor out) s = .next t' ∧ t'.rx.resp = some (.payloadData chunk r)

/-- The whole-buffer form of unmasking gives the bytes UM.XOR gives, in place, and leaves the rest of the buffer alone: for a
payload unmasked in one chunk, and for every cutting of it into chunks within PAY_CHUNK_MAX. -/
def Obligations.WholeBufferFormAgrees : Prop :=
  ∀ (s : State) (buf : List Byte) (base len : Nat), base + len ≤ buf.length → 1 ≤ len →
    s.rx.rxFault = none → s.rx.st = .payload → s.rx.payIdx = 0 → len ≤ s.rx.maxread.toNat →
    (chunkAllowed s.config len →
      ∃ t out r, exec (.umXor ((buf.drop base).take len)) s = .next t ∧ t.rx.resp = some (.payloadData out r) ∧
        unmaskBuffer s.rx.key base len buf = buf.take base ++ out ++ buf.drop (base + len)) ∧
    (∀ chunks, chunks.flatten = (buf.drop base).take len → allowedCut s.config chunks →
      ∃ t out, feedInTurn chunks s = .next t ∧ t.rx.payout = s.rx.payout ++ out ∧
        unmaskBuffer s.rx.key base len buf = buf.take base ++ out ++ buf.drop (base + len))

/-! ### Headline: the round trip through a masking stage, and the software at the boundary -/

/-- Round trip (95_test_vectors.md S1, P7; 90_conflicts.md C1): the header TX_WRITE emits, masked by the masking stage with
any key and fed one byte at a time to a block at a frame boundary with room under its ceiling, gives that opcode, FIN, that
length and that key; an empty payload is then complete, and a masked payload, cut in any way into chunks within PAY_CHUNK_MAX,
gives the payload back and completes the frame. -/
def Obligations.MaskedRoundTrip : Prop :=
  ∀ (s w : State) (op : BitVec 4) (payload : List Byte) (key : Vector Byte 4),
    op ∈ opcodes → payload.length < 2 ^ 63 →
    s.rx.rxFault = none → s.rx.st = .initial → s.rx.haveBytes = 0 →
    s.rx.msgTotal.toNat + payload.length ≤ s.config.maxPayload.toNat →
    ∃ (w' : State) (hdr : List Byte) (t : State),
      exec (.txWrite op (BitVec.ofNat 64 payload.length)) w = .next w' ∧ w'.tx.resp = some (.header hdr) ∧
      feedInTurn ((maskHeader key hdr).map fun b => [b]) s = .next t ∧
      t.rx.st = .payload ∧ t.rx.fin = true ∧ t.rx.opcode = op ∧ t.rx.rxFault = none ∧ t.rx.key = key ∧
      t.rx.declaredLength.toNat = payload.length ∧ t.rx.resp = some (.headerDone t.rx.declaredLength) ∧
      (payload = [] → frameDone t.rx = true) ∧
      (∀ chunks, chunks.flatten = xorFrom key 0 payload → allowedCut s.config chunks →
        ∃ u, feedInTurn chunks t = .next u ∧ u.rx.payout = t.rx.payout ++ payload ∧ frameDone u.rx = true) ∧
      (payload ≠ [] → chunkAllowed s.config payload.length →
        ∃ u, exec (.rxFeed (xorFrom key 0 payload)) t = .next u ∧ u.rx.resp = some (.payloadData payload 0))

/-- `write(opcode, payload, len)` (30_encoding.md section 7, 43_host_interface.md section 5): a valid opcode's header and then the
first `len` payload bytes are to be drained, whatever bytes come after them; an invalid opcode is an argument refused with
nothing sent and no register written. A payload absent or shorter than `len` is N25's open point, of which the model says only
that the plan has a name of its own (log entry 15). -/
def Obligations.WriteSendsHeaderThenPayload : Prop :=
  ∀ (op : BitVec 4) (t : TxHalf),
    (∀ (sent beyond : List Byte), op ∈ opcodes → sent.length < 2 ^ 64 →
      hostWrite op (some (sent ++ beyond)) (BitVec.ofNat 64 sent.length) t
        = (txWrite op (BitVec.ofNat 64 sent.length) t, .send (emitted op (BitVec.ofNat 64 sent.length) ++ sent))) ∧
    (op ∈ opcodes → hostWrite op none 0 t = (txWrite op 0 t, .send (emitted op 0))) ∧
    (∀ (payload : Option (List Byte)) (len : BitVec 64), op ∉ opcodes →
      hostWrite op payload len t
        = ({ t with resp := some (.invalidArgument .badOpcode) }, .invalidArgument .badOpcode)) ∧
    (∀ (payload : Option (List Byte)) (len : BitVec 64), op ∈ opcodes → (payload.getD []).length < len.toNat →
      (hostWrite op payload len t).2 = .payloadShort)

/-- `close(code)` (R168): codes 1000 to 1011 and 1015 are sent big-endian as the payload of a Close frame with header 88 02
and no reason text; every other code is an invalid argument before any I/O. -/
def Obligations.CloseSendsOnlySendableCodes : Prop :=
  ∀ (code : BitVec 16) (t : TxHalf),
    hostClose code t =
      if (1000 ≤ code.toNat ∧ code.toNat ≤ 1011) ∨ code.toNat = 1015 then
        (txWrite 0x8 2 t, .send [0x88, 0x02, BitVec.ofNat 8 (code.toNat / 256), BitVec.ofNat 8 code.toNat])
      else (t, .invalidArgument .badCloseCode)

/-- `close_code(frame)` (R169): 1005 for fewer than two bytes, else the first two big-endian, whatever follows. -/
def Obligations.CloseCodeReadsTwoBytes : Prop :=
  (∀ payload : List Byte, payload.length < 2 → closeCodeOf payload = 1005) ∧
  ∀ (b0 b1 : Byte) (rest : List Byte), (closeCodeOf (b0 :: b1 :: rest)).toNat = b0.toNat * 256 + b1.toNat

/-- A fragmented message reassembles into the concatenation of its fragments in order, under the opcode of its first frame
(43_host_interface.md section 4; the reported opcode is N14's open point, taken as the spec does). -/
def Obligations.FragmentsConcatenate : Prop :=
  ∀ (op : BitVec 4) (first last : List Byte) (middle : List (List Byte)), op = 0x1 ∨ op = 0x2 →
    assembleAll none ((op, false, first) :: (middle.map fun p => (0x0#4, false, p)) ++ [(0x0#4, true, last)])
      = .complete ⟨op, first ++ middle.flatten ++ last⟩

/-- `read` of a whole unfragmented frame, from a block in `Initial` or standing after a complete frame: the header bytes one per
channel read, then the masked payload (an empty one too) in any cutting within PAY_CHUNK_MAX, return the message with the
frame's opcode and the unmasked payload. Each wait is met within the caller's bound and the 1000 ms bound alike; with
`already_ready` the first pass's wait does not matter (43_host_interface.md section 5; log entry 15 for the bounds). -/
def Obligations.ReadDeliversTheMessage : Prop :=
  ∀ (c : Config) (r : RxHalf) (timeout delay : Nat) (alreadyReady : Bool) (firstDelay : Option Nat) (op : BitVec 4)
    (payload : List Byte) (key : Vector Byte 4) (b : Byte) (header : List Byte) (chunks : List (List Byte)),
    op ∈ opcodes → op ≠ 0x0 → payload.length < 2 ^ 63 → payload.length ≤ c.maxPayload.toNat →
    r.rxFault = none → (r.st = .initial ∨ (r.st = .payload ∧ r.payIdx = r.maxread)) →
    delay ≤ timeout → delay ≤ c.inProgressMs → (alreadyReady = true ∨ firstDelay = some delay) →
    b :: header = headerBytes true op true payload.length ++ key.toList →
    chunks.flatten = xorFrom key 0 payload → allowedCut c chunks →
    ∃ r', hostRead c timeout alreadyReady
        (⟨firstDelay, .bytes [b]⟩ :: (header.map fun x => Pass.mk (some delay) (.bytes [x]))
          ++ chunks.map fun ch => Pass.mk (some delay) (.bytes ch)) r
      = .message ⟨op, payload⟩ r'
end

