-- ==== Sys2Proof/Laws/Operands.lean ====
section
/-! SUPPORT. One law per operand form: what byte-file writes leave where, what a chunk of payload unmasks to, and that the
big-endian slices and fields of a value give it back. -/

namespace Sys2Proof.Machine

/-! ### Byte files -/

/-- A write at `a` leaves at `i` the byte of `bytes` that falls there, and everywhere else the old byte. -/
theorem memWrite_getElem {k : Nat} (bytes : List Byte) :
    ∀ (f : Vector Byte k) (a i : Nat) (hi : i < k),
      (memWrite f a bytes)[i] = if h : a ≤ i ∧ i < a + bytes.length then bytes[i - a]'(by omega) else f[i] := by
  induction bytes with
  | nil => intro f a i hi; simp [memWrite]
  | cons b bs ih =>
    intro f a i hi
    rw [memWrite, ih]
    rcases Nat.lt_trichotomy i a with h | rfl | h
    · have h1 : ¬ (a + 1 ≤ i ∧ i < a + 1 + bs.length) := by omega
      have h2 : ¬ (a ≤ i ∧ i < a + (b :: bs).length) := by omega
      rw [dif_neg h1, dif_neg h2, Vector.getElem_setIfInBounds_ne hi (by omega)]
    · have h1 : ¬ (i + 1 ≤ i ∧ i < i + 1 + bs.length) := by omega
      have h2 : i ≤ i ∧ i < i + (b :: bs).length := by simp
      rw [dif_neg h1, dif_pos h2, Vector.getElem_setIfInBounds_self]
      simp
    · by_cases h1 : a + 1 ≤ i ∧ i < a + 1 + bs.length
      · have h2 : a ≤ i ∧ i < a + (b :: bs).length := by simp; omega
        rw [dif_pos h1, dif_pos h2]
        have : i - a = (i - (a + 1)) + 1 := by omega
        simp [this]
      · have h2 : ¬ (a ≤ i ∧ i < a + (b :: bs).length) := by simp; omega
        rw [dif_neg h1, dif_neg h2, Vector.getElem_setIfInBounds_ne hi (by omega)]

/-- Two writes end to end are one write of the joined bytes. -/
theorem memWrite_append {k : Nat} (xs ys : List Byte) :
    ∀ (f : Vector Byte k) (a : Nat),
      memWrite (memWrite f a xs) (a + xs.length) ys = memWrite f a (xs ++ ys) := by
  induction xs with
  | nil => intro f a; simp [memWrite]
  | cons b bs ih =>
    intro f a
    have h : a + (b :: bs).length = a + 1 + bs.length := by simp; omega
    rw [h, memWrite, ih]
    rfl

/-- Within a file the total byte write is the plain one. -/
theorem setIfInBounds_eq_set {k : Nat} (f : Vector Byte k) (i : Nat) (b : Byte) (h : i < k) :
    f.setIfInBounds i b = f.set i b h := by
  apply Vector.ext
  intro j hj
  rw [Vector.getElem_set]
  by_cases e : i = j
  · subst e; rw [if_pos rfl]; exact Vector.getElem_setIfInBounds_self h
  · rw [if_neg e]; exact Vector.getElem_setIfInBounds_ne hj e

/-- What was written from offset 0 is read back. -/
theorem memRead_memWrite {k : Nat} (f : Vector Byte k) (bytes : List Byte) (h : bytes.length ≤ k) :
    memRead (memWrite f 0 bytes) 0 bytes.length = bytes := by
  unfold memRead
  apply List.ext_getElem
  · simp; omega
  · intro i h1 h2
    simp only [List.drop_zero, List.getElem_take, Vector.getElem_toList]
    rw [memWrite_getElem, dif_pos ⟨by omega, by omega⟩]
    simp

/-! ### Unmasking -/

/-- Unmasking keeps the length. -/
@[simp] theorem xorFrom_length (key : Vector Byte 4) (bytes : List Byte) :
    ∀ i, (xorFrom key i bytes).length = bytes.length := by
  induction bytes with
  | nil => intro i; rfl
  | cons b bs ih => intro i; simp [xorFrom, ih]

/-- Unmasking is lane by lane: byte `j` depends on byte `j` and the key byte of its index (R126). -/
theorem xorFrom_getElem (key : Vector Byte 4) (bytes : List Byte) :
    ∀ (i j : Nat) (hj : j < bytes.length),
      (xorFrom key i bytes)[j]'(by simpa using hj)
        = bytes[j] ^^^ key[(i + j) % 4]'(Nat.mod_lt _ (by decide)) := by
  induction bytes with
  | nil => intro i j hj; simp at hj
  | cons b bs ih =>
    intro i j hj
    cases j with
    | zero => simp [xorFrom]
    | succ j =>
      have := ih (i + 1) j (by simpa using hj)
      simp only [xorFrom, List.getElem_cons_succ, this]
      congr 2
      omega

/-- Unmasking two chunks one after the other is unmasking them joined. -/
theorem xorFrom_append (key : Vector Byte 4) (xs ys : List Byte) :
    ∀ i, xorFrom key i (xs ++ ys) = xorFrom key i xs ++ xorFrom key (i + xs.length) ys := by
  induction xs with
  | nil => intro i; simp [xorFrom]
  | cons b bs ih =>
    intro i
    simp only [List.cons_append, xorFrom, ih, List.length_cons]
    congr 3
    omega

/-! ### Big-endian lengths -/

/-- `be16` is exact (R104). -/
theorem be16_toNat (a b : Byte) : (be16 a b).toNat = a.toNat * 256 + b.toNat := by
  have := a.isLt
  have := b.isLt
  simp [be16]
  omega

/-- `be64` is exact (R104): the sum of `b_i * 2^(8 * (7 - i))`. -/
theorem be64_toNat (b0 b1 b2 b3 b4 b5 b6 b7 : Byte) :
    (be64 #v[b0, b1, b2, b3, b4, b5, b6, b7]).toNat
      = b0.toNat * 2 ^ 56 + b1.toNat * 2 ^ 48 + b2.toNat * 2 ^ 40 + b3.toNat * 2 ^ 32
        + b4.toNat * 2 ^ 24 + b5.toNat * 2 ^ 16 + b6.toNat * 2 ^ 8 + b7.toNat := by
  have := b0.isLt
  have := b1.isLt
  have := b2.isLt
  have := b3.isLt
  have := b4.isLt
  have := b5.isLt
  have := b6.isLt
  have := b7.isLt
  simp [be64, beNat]
  omega

/-- The two slices of a 16-bit length give it back (R70). -/
theorem be16_slices (x : BitVec 16) : be16 (x.extractLsb' 8 8) (x.extractLsb' 0 8) = x := by
  apply BitVec.eq_of_toNat_eq
  have := x.isLt
  rw [be16_toNat]
  simp [BitVec.extractLsb'_toNat, Nat.shiftRight_eq_div_pow]
  omega

/-- The eight slices of a 64-bit length give it back (R70). -/
theorem be64_slices (x : BitVec 64) :
    be64 #v[x.extractLsb' 56 8, x.extractLsb' 48 8, x.extractLsb' 40 8, x.extractLsb' 32 8,
      x.extractLsb' 24 8, x.extractLsb' 16 8, x.extractLsb' 8 8, x.extractLsb' 0 8] = x := by
  apply BitVec.eq_of_toNat_eq
  have := x.isLt
  rw [be64_toNat]
  simp [BitVec.extractLsb'_toNat, Nat.shiftRight_eq_div_pow]
  omega

/-! ### Fields of header bytes -/

@[simp] theorem b0Fin_mkB0 (fin : Bool) (op : BitVec 4) : b0Fin (mkB0 fin op) = fin := by
  revert fin op; decide

@[simp] theorem b0Rsv_mkB0 (fin : Bool) (op : BitVec 4) : b0Rsv (mkB0 fin op) = 0 := by
  revert fin op; decide

@[simp] theorem b0Opcode_mkB0 (fin : Bool) (op : BitVec 4) : b0Opcode (mkB0 fin op) = op := by
  revert fin op; decide

@[simp] theorem b1Mask_mkB1 (m : Bool) (len : BitVec 7) : b1Mask (mkB1 m len) = m := by
  revert m len; decide

@[simp] theorem b1Len7_mkB1 (m : Bool) (len : BitVec 7) : b1Len7 (mkB1 m len) = len := by
  revert m len; decide

/-- Byte 0 is determined by its three fields (R61). -/
theorem b0_fields (b : Byte) (h : b0Rsv b = 0) : mkB0 (b0Fin b) (b0Opcode b) = b := by
  revert b; decide

/-- Byte 1 is determined by its two fields (R62). -/
theorem b1_fields (b : Byte) : mkB1 (b1Mask b) (b1Len7 b) = b := by
  revert b; decide

/-- The six valid opcodes (R77). -/
theorem validOpcode_iff (op : BitVec 4) :
    validOpcode op = true ↔
      op = opCont ∨ op = opText ∨ op = opBin ∨ op = opClose ∨ op = opPing ∨ op = opPong := by
  revert op; decide

end Sys2Proof.Machine
end

