-- ==== Sys2Proof/Laws/State.lean ====
section
/-! SUPPORT. The small lemmas of the state updates: one per field per update, true by `rfl`, so that no proof unfolds a record
update. -/

namespace Sys2Proof.Machine

/-! ### RxHalf.respond -/

@[simp] theorem RxHalf.respond_fin (x : Response) (r : RxHalf) : (r.respond x).fin = r.fin := rfl
@[simp] theorem RxHalf.respond_rsv (x : Response) (r : RxHalf) : (r.respond x).rsv = r.rsv := rfl
@[simp] theorem RxHalf.respond_opcode (x : Response) (r : RxHalf) : (r.respond x).opcode = r.opcode := rfl
@[simp] theorem RxHalf.respond_masked (x : Response) (r : RxHalf) : (r.respond x).masked = r.masked := rfl
@[simp] theorem RxHalf.respond_key (x : Response) (r : RxHalf) : (r.respond x).key = r.key := rfl
@[simp] theorem RxHalf.respond_declaredLength (x : Response) (r : RxHalf) : (r.respond x).declaredLength = r.declaredLength := rfl
@[simp] theorem RxHalf.respond_maxread (x : Response) (r : RxHalf) : (r.respond x).maxread = r.maxread := rfl
@[simp] theorem RxHalf.respond_st (x : Response) (r : RxHalf) : (r.respond x).st = r.st := rfl
@[simp] theorem RxHalf.respond_haveBytes (x : Response) (r : RxHalf) : (r.respond x).haveBytes = r.haveBytes := rfl
@[simp] theorem RxHalf.respond_payIdx (x : Response) (r : RxHalf) : (r.respond x).payIdx = r.payIdx := rfl
@[simp] theorem RxHalf.respond_scratch (x : Response) (r : RxHalf) : (r.respond x).scratch = r.scratch := rfl
@[simp] theorem RxHalf.respond_rxFault (x : Response) (r : RxHalf) : (r.respond x).rxFault = r.rxFault := rfl
@[simp] theorem RxHalf.respond_ccValid (x : Response) (r : RxHalf) : (r.respond x).ccValid = r.ccValid := rfl
@[simp] theorem RxHalf.respond_closeCode (x : Response) (r : RxHalf) : (r.respond x).closeCode = r.closeCode := rfl
@[simp] theorem RxHalf.respond_msgTotal (x : Response) (r : RxHalf) : (r.respond x).msgTotal = r.msgTotal := rfl
@[simp] theorem RxHalf.respond_resp (x : Response) (r : RxHalf) : (r.respond x).resp = some x := rfl
@[simp] theorem RxHalf.respond_rxs (x : Response) (r : RxHalf) : (r.respond x).rxs = r.rxs := rfl
@[simp] theorem RxHalf.respond_payout (x : Response) (r : RxHalf) : (r.respond x).payout = r.payout := rfl

/-! ### refuse -/

@[simp] theorem refuse_fin (w : RefuseReason) (r : RxHalf) : (refuse w r).fin = r.fin := rfl
@[simp] theorem refuse_rsv (w : RefuseReason) (r : RxHalf) : (refuse w r).rsv = r.rsv := rfl
@[simp] theorem refuse_opcode (w : RefuseReason) (r : RxHalf) : (refuse w r).opcode = r.opcode := rfl
@[simp] theorem refuse_masked (w : RefuseReason) (r : RxHalf) : (refuse w r).masked = r.masked := rfl
@[simp] theorem refuse_key (w : RefuseReason) (r : RxHalf) : (refuse w r).key = r.key := rfl
@[simp] theorem refuse_declaredLength (w : RefuseReason) (r : RxHalf) : (refuse w r).declaredLength = r.declaredLength := rfl
@[simp] theorem refuse_maxread (w : RefuseReason) (r : RxHalf) : (refuse w r).maxread = r.maxread := rfl
@[simp] theorem refuse_st (w : RefuseReason) (r : RxHalf) : (refuse w r).st = r.st := rfl
@[simp] theorem refuse_haveBytes (w : RefuseReason) (r : RxHalf) : (refuse w r).haveBytes = r.haveBytes := rfl
@[simp] theorem refuse_payIdx (w : RefuseReason) (r : RxHalf) : (refuse w r).payIdx = r.payIdx := rfl
@[simp] theorem refuse_scratch (w : RefuseReason) (r : RxHalf) : (refuse w r).scratch = r.scratch := rfl
@[simp] theorem refuse_rxFault (w : RefuseReason) (r : RxHalf) : (refuse w r).rxFault = r.rxFault := rfl
@[simp] theorem refuse_ccValid (w : RefuseReason) (r : RxHalf) : (refuse w r).ccValid = r.ccValid := rfl
@[simp] theorem refuse_closeCode (w : RefuseReason) (r : RxHalf) : (refuse w r).closeCode = r.closeCode := rfl
@[simp] theorem refuse_msgTotal (w : RefuseReason) (r : RxHalf) : (refuse w r).msgTotal = r.msgTotal := rfl
@[simp] theorem refuse_resp (w : RefuseReason) (r : RxHalf) : (refuse w r).resp = some (.refused w) := rfl
@[simp] theorem refuse_rxs (w : RefuseReason) (r : RxHalf) : (refuse w r).rxs = r.rxs := rfl
@[simp] theorem refuse_payout (w : RefuseReason) (r : RxHalf) : (refuse w r).payout = r.payout := rfl

/-! ### raise -/

@[simp] theorem raise_fin (k : FaultKind) (w : Reason) (r : RxHalf) : (raise k w r).fin = r.fin := rfl
@[simp] theorem raise_rsv (k : FaultKind) (w : Reason) (r : RxHalf) : (raise k w r).rsv = r.rsv := rfl
@[simp] theorem raise_opcode (k : FaultKind) (w : Reason) (r : RxHalf) : (raise k w r).opcode = r.opcode := rfl
@[simp] theorem raise_masked (k : FaultKind) (w : Reason) (r : RxHalf) : (raise k w r).masked = r.masked := rfl
@[simp] theorem raise_key (k : FaultKind) (w : Reason) (r : RxHalf) : (raise k w r).key = r.key := rfl
@[simp] theorem raise_declaredLength (k : FaultKind) (w : Reason) (r : RxHalf) : (raise k w r).declaredLength = r.declaredLength := rfl
@[simp] theorem raise_maxread (k : FaultKind) (w : Reason) (r : RxHalf) : (raise k w r).maxread = r.maxread := rfl
@[simp] theorem raise_st (k : FaultKind) (w : Reason) (r : RxHalf) : (raise k w r).st = r.st := rfl
@[simp] theorem raise_haveBytes (k : FaultKind) (w : Reason) (r : RxHalf) : (raise k w r).haveBytes = r.haveBytes := rfl
@[simp] theorem raise_payIdx (k : FaultKind) (w : Reason) (r : RxHalf) : (raise k w r).payIdx = r.payIdx := rfl
@[simp] theorem raise_scratch (k : FaultKind) (w : Reason) (r : RxHalf) : (raise k w r).scratch = r.scratch := rfl
@[simp] theorem raise_rxFault (k : FaultKind) (w : Reason) (r : RxHalf) : (raise k w r).rxFault = some k := rfl
@[simp] theorem raise_ccValid (k : FaultKind) (w : Reason) (r : RxHalf) : (raise k w r).ccValid = faultCcValid k r.ccValid := rfl
@[simp] theorem raise_closeCode (k : FaultKind) (w : Reason) (r : RxHalf) : (raise k w r).closeCode = faultCloseCode k r.closeCode := rfl
@[simp] theorem raise_msgTotal (k : FaultKind) (w : Reason) (r : RxHalf) : (raise k w r).msgTotal = r.msgTotal := rfl
@[simp] theorem raise_resp (k : FaultKind) (w : Reason) (r : RxHalf) : (raise k w r).resp = some (.fault k w) := rfl
@[simp] theorem raise_rxs (k : FaultKind) (w : Reason) (r : RxHalf) : (raise k w r).rxs = r.rxs := rfl
@[simp] theorem raise_payout (k : FaultKind) (w : Reason) (r : RxHalf) : (raise k w r).payout = r.payout := rfl

/-! ### clearFrame -/

@[simp] theorem clearFrame_fin (r : RxHalf) : (clearFrame r).fin = false := rfl
@[simp] theorem clearFrame_rsv (r : RxHalf) : (clearFrame r).rsv = 0 := rfl
@[simp] theorem clearFrame_opcode (r : RxHalf) : (clearFrame r).opcode = 0 := rfl
@[simp] theorem clearFrame_masked (r : RxHalf) : (clearFrame r).masked = false := rfl
@[simp] theorem clearFrame_key (r : RxHalf) : (clearFrame r).key = Vector.replicate 4 0 := rfl
@[simp] theorem clearFrame_declaredLength (r : RxHalf) : (clearFrame r).declaredLength = 0 := rfl
@[simp] theorem clearFrame_maxread (r : RxHalf) : (clearFrame r).maxread = 0 := rfl
@[simp] theorem clearFrame_st (r : RxHalf) : (clearFrame r).st = .initial := rfl
@[simp] theorem clearFrame_haveBytes (r : RxHalf) : (clearFrame r).haveBytes = 0 := rfl
@[simp] theorem clearFrame_payIdx (r : RxHalf) : (clearFrame r).payIdx = 0 := rfl
@[simp] theorem clearFrame_scratch (r : RxHalf) : (clearFrame r).scratch = Vector.replicate 8 0 := rfl
@[simp] theorem clearFrame_rxFault (r : RxHalf) : (clearFrame r).rxFault = r.rxFault := rfl
@[simp] theorem clearFrame_ccValid (r : RxHalf) : (clearFrame r).ccValid = r.ccValid := rfl
@[simp] theorem clearFrame_closeCode (r : RxHalf) : (clearFrame r).closeCode = r.closeCode := rfl
@[simp] theorem clearFrame_msgTotal (r : RxHalf) : (clearFrame r).msgTotal = r.msgTotal := rfl
@[simp] theorem clearFrame_resp (r : RxHalf) : (clearFrame r).resp = r.resp := rfl
@[simp] theorem clearFrame_rxs (r : RxHalf) : (clearFrame r).rxs = r.rxs := rfl
@[simp] theorem clearFrame_payout (r : RxHalf) : (clearFrame r).payout = r.payout := rfl

/-! ### clearTotal -/

@[simp] theorem clearTotal_fin (r : RxHalf) : (clearTotal r).fin = r.fin := rfl
@[simp] theorem clearTotal_rsv (r : RxHalf) : (clearTotal r).rsv = r.rsv := rfl
@[simp] theorem clearTotal_opcode (r : RxHalf) : (clearTotal r).opcode = r.opcode := rfl
@[simp] theorem clearTotal_masked (r : RxHalf) : (clearTotal r).masked = r.masked := rfl
@[simp] theorem clearTotal_key (r : RxHalf) : (clearTotal r).key = r.key := rfl
@[simp] theorem clearTotal_declaredLength (r : RxHalf) : (clearTotal r).declaredLength = r.declaredLength := rfl
@[simp] theorem clearTotal_maxread (r : RxHalf) : (clearTotal r).maxread = r.maxread := rfl
@[simp] theorem clearTotal_st (r : RxHalf) : (clearTotal r).st = r.st := rfl
@[simp] theorem clearTotal_haveBytes (r : RxHalf) : (clearTotal r).haveBytes = r.haveBytes := rfl
@[simp] theorem clearTotal_payIdx (r : RxHalf) : (clearTotal r).payIdx = r.payIdx := rfl
@[simp] theorem clearTotal_scratch (r : RxHalf) : (clearTotal r).scratch = r.scratch := rfl
@[simp] theorem clearTotal_rxFault (r : RxHalf) : (clearTotal r).rxFault = r.rxFault := rfl
@[simp] theorem clearTotal_ccValid (r : RxHalf) : (clearTotal r).ccValid = r.ccValid := rfl
@[simp] theorem clearTotal_closeCode (r : RxHalf) : (clearTotal r).closeCode = r.closeCode := rfl
@[simp] theorem clearTotal_msgTotal (r : RxHalf) : (clearTotal r).msgTotal = 0 := rfl
@[simp] theorem clearTotal_resp (r : RxHalf) : (clearTotal r).resp = r.resp := rfl
@[simp] theorem clearTotal_rxs (r : RxHalf) : (clearTotal r).rxs = r.rxs := rfl
@[simp] theorem clearTotal_payout (r : RxHalf) : (clearTotal r).payout = r.payout := rfl

/-! ### clearRx -/

@[simp] theorem clearRx_fin (r : RxHalf) : (clearRx r).fin = false := rfl
@[simp] theorem clearRx_rsv (r : RxHalf) : (clearRx r).rsv = 0 := rfl
@[simp] theorem clearRx_opcode (r : RxHalf) : (clearRx r).opcode = 0 := rfl
@[simp] theorem clearRx_masked (r : RxHalf) : (clearRx r).masked = false := rfl
@[simp] theorem clearRx_key (r : RxHalf) : (clearRx r).key = Vector.replicate 4 0 := rfl
@[simp] theorem clearRx_declaredLength (r : RxHalf) : (clearRx r).declaredLength = 0 := rfl
@[simp] theorem clearRx_maxread (r : RxHalf) : (clearRx r).maxread = 0 := rfl
@[simp] theorem clearRx_st (r : RxHalf) : (clearRx r).st = .initial := rfl
@[simp] theorem clearRx_haveBytes (r : RxHalf) : (clearRx r).haveBytes = 0 := rfl
@[simp] theorem clearRx_payIdx (r : RxHalf) : (clearRx r).payIdx = 0 := rfl
@[simp] theorem clearRx_scratch (r : RxHalf) : (clearRx r).scratch = Vector.replicate 8 0 := rfl
@[simp] theorem clearRx_rxFault (r : RxHalf) : (clearRx r).rxFault = none := rfl
@[simp] theorem clearRx_ccValid (r : RxHalf) : (clearRx r).ccValid = false := rfl
@[simp] theorem clearRx_closeCode (r : RxHalf) : (clearRx r).closeCode = 0 := rfl
@[simp] theorem clearRx_msgTotal (r : RxHalf) : (clearRx r).msgTotal = 0 := rfl
@[simp] theorem clearRx_resp (r : RxHalf) : (clearRx r).resp = r.resp := rfl
@[simp] theorem clearRx_rxs (r : RxHalf) : (clearRx r).rxs = r.rxs := rfl
@[simp] theorem clearRx_payout (r : RxHalf) : (clearRx r).payout = r.payout := rfl

/-! ### storeChunk -/

@[simp] theorem storeChunk_fin (ch : List Byte) (r : RxHalf) : (storeChunk ch r).fin = r.fin := rfl
@[simp] theorem storeChunk_rsv (ch : List Byte) (r : RxHalf) : (storeChunk ch r).rsv = r.rsv := rfl
@[simp] theorem storeChunk_opcode (ch : List Byte) (r : RxHalf) : (storeChunk ch r).opcode = r.opcode := rfl
@[simp] theorem storeChunk_masked (ch : List Byte) (r : RxHalf) : (storeChunk ch r).masked = r.masked := rfl
@[simp] theorem storeChunk_key (ch : List Byte) (r : RxHalf) : (storeChunk ch r).key = r.key := rfl
@[simp] theorem storeChunk_declaredLength (ch : List Byte) (r : RxHalf) : (storeChunk ch r).declaredLength = r.declaredLength := rfl
@[simp] theorem storeChunk_maxread (ch : List Byte) (r : RxHalf) : (storeChunk ch r).maxread = r.maxread := rfl
@[simp] theorem storeChunk_st (ch : List Byte) (r : RxHalf) : (storeChunk ch r).st = r.st := rfl
@[simp] theorem storeChunk_haveBytes (ch : List Byte) (r : RxHalf) : (storeChunk ch r).haveBytes = BitVec.ofNat 4 (r.haveBytes.toNat + ch.length) := rfl
@[simp] theorem storeChunk_payIdx (ch : List Byte) (r : RxHalf) : (storeChunk ch r).payIdx = r.payIdx := rfl
@[simp] theorem storeChunk_scratch (ch : List Byte) (r : RxHalf) : (storeChunk ch r).scratch = memWrite r.scratch r.haveBytes.toNat ch := rfl
@[simp] theorem storeChunk_rxFault (ch : List Byte) (r : RxHalf) : (storeChunk ch r).rxFault = r.rxFault := rfl
@[simp] theorem storeChunk_ccValid (ch : List Byte) (r : RxHalf) : (storeChunk ch r).ccValid = r.ccValid := rfl
@[simp] theorem storeChunk_closeCode (ch : List Byte) (r : RxHalf) : (storeChunk ch r).closeCode = r.closeCode := rfl
@[simp] theorem storeChunk_msgTotal (ch : List Byte) (r : RxHalf) : (storeChunk ch r).msgTotal = r.msgTotal := rfl
@[simp] theorem storeChunk_resp (ch : List Byte) (r : RxHalf) : (storeChunk ch r).resp = r.resp := rfl
@[simp] theorem storeChunk_rxs (ch : List Byte) (r : RxHalf) : (storeChunk ch r).rxs = r.rxs ++ ch := rfl
@[simp] theorem storeChunk_payout (ch : List Byte) (r : RxHalf) : (storeChunk ch r).payout = r.payout := rfl

/-! ### RxHalf.goTo -/

@[simp] theorem RxHalf.goTo_fin (q : ParseState) (r : RxHalf) : (r.goTo q).fin = r.fin := rfl
@[simp] theorem RxHalf.goTo_rsv (q : ParseState) (r : RxHalf) : (r.goTo q).rsv = r.rsv := rfl
@[simp] theorem RxHalf.goTo_opcode (q : ParseState) (r : RxHalf) : (r.goTo q).opcode = r.opcode := rfl
@[simp] theorem RxHalf.goTo_masked (q : ParseState) (r : RxHalf) : (r.goTo q).masked = r.masked := rfl
@[simp] theorem RxHalf.goTo_key (q : ParseState) (r : RxHalf) : (r.goTo q).key = r.key := rfl
@[simp] theorem RxHalf.goTo_declaredLength (q : ParseState) (r : RxHalf) : (r.goTo q).declaredLength = r.declaredLength := rfl
@[simp] theorem RxHalf.goTo_maxread (q : ParseState) (r : RxHalf) : (r.goTo q).maxread = r.maxread := rfl
@[simp] theorem RxHalf.goTo_st (q : ParseState) (r : RxHalf) : (r.goTo q).st = q := rfl
@[simp] theorem RxHalf.goTo_haveBytes (q : ParseState) (r : RxHalf) : (r.goTo q).haveBytes = 0 := rfl
@[simp] theorem RxHalf.goTo_payIdx (q : ParseState) (r : RxHalf) : (r.goTo q).payIdx = r.payIdx := rfl
@[simp] theorem RxHalf.goTo_scratch (q : ParseState) (r : RxHalf) : (r.goTo q).scratch = r.scratch := rfl
@[simp] theorem RxHalf.goTo_rxFault (q : ParseState) (r : RxHalf) : (r.goTo q).rxFault = r.rxFault := rfl
@[simp] theorem RxHalf.goTo_ccValid (q : ParseState) (r : RxHalf) : (r.goTo q).ccValid = r.ccValid := rfl
@[simp] theorem RxHalf.goTo_closeCode (q : ParseState) (r : RxHalf) : (r.goTo q).closeCode = r.closeCode := rfl
@[simp] theorem RxHalf.goTo_msgTotal (q : ParseState) (r : RxHalf) : (r.goTo q).msgTotal = r.msgTotal := rfl
@[simp] theorem RxHalf.goTo_resp (q : ParseState) (r : RxHalf) : (r.goTo q).resp = r.resp := rfl
@[simp] theorem RxHalf.goTo_rxs (q : ParseState) (r : RxHalf) : (r.goTo q).rxs = r.rxs := rfl
@[simp] theorem RxHalf.goTo_payout (q : ParseState) (r : RxHalf) : (r.goTo q).payout = r.payout := rfl

/-! ### TxHalf.respond -/

@[simp] theorem TxHalf.respond_txh (x : Response) (t : TxHalf) : (t.respond x).txh = t.txh := rfl
@[simp] theorem TxHalf.respond_txhLen (x : Response) (t : TxHalf) : (t.respond x).txhLen = t.txhLen := rfl
@[simp] theorem TxHalf.respond_resp (x : Response) (t : TxHalf) : (t.respond x).resp = some x := rfl
@[simp] theorem TxHalf.respond_txs (x : Response) (t : TxHalf) : (t.respond x).txs = t.txs := rfl

/-! ### clearTx -/

@[simp] theorem clearTx_txh (t : TxHalf) : (clearTx t).txh = Vector.replicate 10 0 := rfl
@[simp] theorem clearTx_txhLen (t : TxHalf) : (clearTx t).txhLen = 0 := rfl
@[simp] theorem clearTx_resp (t : TxHalf) : (clearTx t).resp = t.resp := rfl
@[simp] theorem clearTx_txs (t : TxHalf) : (clearTx t).txs = t.txs := rfl

/-! ### State.onRx -/

@[simp] theorem State.onRx_config (f : RxHalf → RxHalf) (s : State) : (s.onRx f).config = s.config := rfl
@[simp] theorem State.onRx_rx (f : RxHalf → RxHalf) (s : State) : (s.onRx f).rx = f s.rx := rfl
@[simp] theorem State.onRx_tx (f : RxHalf → RxHalf) (s : State) : (s.onRx f).tx = s.tx := rfl
@[simp] theorem State.onRx_stream (f : RxHalf → RxHalf) (s : State) : (s.onRx f).stream = s.stream := rfl

/-! ### State.onTx -/

@[simp] theorem State.onTx_config (f : TxHalf → TxHalf) (s : State) : (s.onTx f).config = s.config := rfl
@[simp] theorem State.onTx_rx (f : TxHalf → TxHalf) (s : State) : (s.onTx f).rx = s.rx := rfl
@[simp] theorem State.onTx_tx (f : TxHalf → TxHalf) (s : State) : (s.onTx f).tx = f s.tx := rfl
@[simp] theorem State.onTx_stream (f : TxHalf → TxHalf) (s : State) : (s.onTx f).stream = s.stream := rfl

/-! ### hardReset -/

@[simp] theorem hardReset_config (s : State) : (hardReset s).config = s.config := rfl
@[simp] theorem hardReset_rx (s : State) : (hardReset s).rx = { clearRx s.rx with resp := none } := rfl
@[simp] theorem hardReset_tx (s : State) : (hardReset s).tx = { clearTx s.tx with resp := none } := rfl
@[simp] theorem hardReset_stream (s : State) : (hardReset s).stream = s.stream := rfl

/-! ### present -/

@[simp] theorem present_config (i : Input) (s : State) : (present i s).config = s.config := rfl
@[simp] theorem present_rx (i : Input) (s : State) : (present i s).rx = s.rx := rfl
@[simp] theorem present_tx (i : Input) (s : State) : (present i s).tx = s.tx := rfl
@[simp] theorem present_stream (i : Input) (s : State) : (present i s).stream = i :: s.stream := rfl

/-! ### The configuration's sizes (00_scope.md R5) -/

/-- Under a well-formed configuration the byte files and lengths of the state have the sizes the configuration names. -/
theorem State.sizes_of_wellFormed (s : State) (h : s.config.wellFormed = true) :
    s.rx.scratch.toList.length = s.config.scratchBytes ∧ s.rx.key.toList.length = s.config.keyBytes ∧
      s.tx.txh.toList.length = s.config.txhBytes ∧ s.rx.declaredLength.toNat < 2 ^ s.config.lenBits ∧
      s.config.maxPayload.toNat ≤ s.config.lenMax := by
  simp only [Config.wellFormed, Bool.and_eq_true, decide_eq_true_eq] at h
  obtain ⟨⟨⟨⟨⟨⟨h1, h2⟩, h3⟩, h4⟩, h5⟩, h6⟩, -⟩ := h
  rw [h1, h2, h3, h4, h5]
  exact ⟨by simp, by simp, by simp, s.rx.declaredLength.isLt, by omega⟩

end Sys2Proof.Machine
end

