-- ==== Sys2Proof/Laws/Ops.lean ====
section
/-! SUPPORT. For each shared operation, once, everything it can do; later proofs cite these lemmas and do not unfold the
operation. -/

namespace Sys2Proof.Machine

/-! ### Conditions -/

/-- When an operation of a header state is performed. -/
theorem performs_iff (q : ParseState) (r : RxHalf) :
    performs q r = true ↔ r.rxFault = none ∧ r.st = q ∧ r.haveBytes.toNat = needTotal q := by
  simp [performs, and_assoc]

/-- When UM.XOR is performed. -/
theorem unmasks_iff (c : Config) (chunk : List Byte) (r : RxHalf) :
    unmasks c chunk r = true ↔
      r.rxFault = none ∧ r.st = .payload ∧ 1 ≤ chunk.length ∧ chunk.length ≤ payRem r ∧
        withinChunkMax c chunk.length = true := by
  simp [unmasks, and_assoc]

/-- `frame_done` (R22). -/
theorem frameDone_iff (r : RxHalf) : frameDone r = true ↔ r.st = .payload ∧ r.payIdx = r.maxread := by
  simp [frameDone]

/-- A header state is no completed frame. -/
theorem frameDone_of_header {r : RxHalf} (h : isHeader r.st = true) : frameDone r = false := by
  cases hs : r.st <;> simp_all [frameDone, isHeader]

/-- `Payload` is the one state that is no header state. -/
theorem isHeader_false_iff (q : ParseState) : isHeader q = false ↔ q = .payload := by
  cases q <;> simp [isHeader]

/-! ### Outcomes -/

/-- An operation presented by itself answers a next state exactly where it is performed. -/
theorem performed_eq_next {ready : Bool} {f : RxHalf → RxHalf} {s t : State} :
    performed ready f s = .next t ↔ ready = true ∧ t = s.onRx f := by
  cases ready <;> simp [performed, eq_comm]

/-- Where it is not performed it stops by name. -/
theorem performed_of_not {f : RxHalf → RxHalf} {s : State} :
    performed false f s = .refused .operationNotPerformed := rfl

/-- Where it is performed it acts on the RX half alone. -/
theorem performed_of_ready {f : RxHalf → RxHalf} {s : State} : performed true f s = .next (s.onRx f) := rfl

/-! ### RX_START, RX_NEXT (R152, R153) -/

/-- The three outcomes of RX_START and RX_NEXT. -/
theorem startWith_cases (f : RxHalf → RxHalf) (r : RxHalf) :
    (r.rxFault ≠ none ∧ startWith f r = refuse .faulted r) ∨
    (r.rxFault = none ∧ r.st ≠ .initial ∧ frameDone r = false ∧ startWith f r = refuse .frameInProgress r) ∨
    (r.rxFault = none ∧ (r.st = .initial ∨ frameDone r = true) ∧ startWith f r = (f r).respond .ok) := by
  unfold startWith
  by_cases hf : r.rxFault = none
  · by_cases hs : r.st = .initial
    · simp [hf, hs]
    · cases hd : frameDone r <;> simp [hf, hs]
  · simp [hf]

/-! ### RX_FEED, line by line (R90) -/

/-- Line 1. -/
theorem rxFeed_faulted {c : Config} {chunk : List Byte} {r : RxHalf} (h : r.rxFault ≠ none) :
    rxFeed c chunk r = refuse .faulted r := by
  simp [rxFeed, h]

/-- Line 2. -/
theorem rxFeed_frameComplete {c : Config} {chunk : List Byte} {r : RxHalf} (hf : r.rxFault = none)
    (hd : frameDone r = true) : rxFeed c chunk r = refuse .frameComplete r := by
  simp [rxFeed, hf, hd]

/-- Line 3. -/
theorem rxFeed_empty {c : Config} {r : RxHalf} (hf : r.rxFault = none) (hd : frameDone r = false) :
    rxFeed c [] r = rxChfail r := by
  simp [rxFeed, hf, hd]

/-- Line 4. -/
theorem rxFeed_overfeed_header {c : Config} {chunk : List Byte} {r : RxHalf} (hf : r.rxFault = none)
    (hh : isHeader r.st = true) (hn : need r < chunk.length) : rxFeed c chunk r = refuse .overfeed r := by
  have h0 : chunk ≠ [] := by rintro rfl; simp at hn
  simp [rxFeed, hf, frameDone_of_header hh, h0, hh, hn]

/-- Line 5. -/
theorem rxFeed_overfeed_payload {c : Config} {chunk : List Byte} {r : RxHalf} (hf : r.rxFault = none)
    (hd : frameDone r = false) (hs : r.st = .payload) (h0 : chunk ≠ [])
    (hn : payRem r < chunk.length ∨ withinChunkMax c chunk.length = false) :
    rxFeed c chunk r = refuse .overfeed r := by
  simp [rxFeed, hf, hd, h0, hs, isHeader, hn]

/-- Line 6. -/
theorem rxFeed_header {c : Config} {chunk : List Byte} {r : RxHalf} (hf : r.rxFault = none)
    (hh : isHeader r.st = true) (h0 : chunk ≠ []) (hn : chunk.length ≤ need r) :
    rxFeed c chunk r = feedHeader c chunk r := by
  simp [rxFeed, hf, frameDone_of_header hh, h0, hh, Nat.not_lt.mpr hn]

/-- Line 7: exactly where UM.XOR is performed. -/
theorem rxFeed_payload {c : Config} {chunk : List Byte} {r : RxHalf} (h : unmasks c chunk r = true) :
    rxFeed c chunk r = umXor chunk r := by
  obtain ⟨hf, hs, h1, h2, h3⟩ := (unmasks_iff c chunk r).mp h
  have h0 : chunk ≠ [] := by rintro rfl; simp at h1
  have hd : frameDone r = false := by
    rw [← Bool.not_eq_true, frameDone_iff]
    rintro ⟨-, hp⟩
    simp [payRem, hs, hp] at h2
    exact h0 h2
  have h2' : ¬ payRem r < chunk.length := by omega
  simp [rxFeed, hf, hd, h0, hs, isHeader, h2', h3]

/-- Everything RX_FEED can do: refuse, act as RX_CHFAIL, take header bytes, or unmask. -/
theorem rxFeed_cases (c : Config) (chunk : List Byte) (r : RxHalf) :
    (∃ w, rxFeed c chunk r = refuse w r) ∨
    (r.rxFault = none ∧ frameDone r = false ∧ chunk = [] ∧ rxFeed c chunk r = rxChfail r) ∨
    (r.rxFault = none ∧ isHeader r.st = true ∧ 1 ≤ chunk.length ∧ chunk.length ≤ need r ∧
      rxFeed c chunk r = feedHeader c chunk r) ∨
    (unmasks c chunk r = true ∧ rxFeed c chunk r = umXor chunk r) := by
  by_cases hf : r.rxFault = none
  swap
  · exact .inl ⟨_, rxFeed_faulted hf⟩
  cases hd : frameDone r
  swap
  · exact .inl ⟨_, rxFeed_frameComplete hf hd⟩
  by_cases h0 : chunk = []
  · subst h0
    exact .inr (.inl ⟨hf, rfl, rfl, rxFeed_empty hf hd⟩)
  have h1 : 1 ≤ chunk.length := by
    cases chunk with
    | nil => exact absurd rfl h0
    | cons b bs => simp
  cases hh : isHeader r.st
  · have hs := (isHeader_false_iff r.st).mp hh
    by_cases hn : payRem r < chunk.length ∨ withinChunkMax c chunk.length = false
    · exact .inl ⟨_, rxFeed_overfeed_payload hf hd hs h0 hn⟩
    · have hu : unmasks c chunk r = true := by
        rw [unmasks_iff]
        refine ⟨hf, hs, h1, by omega, ?_⟩
        cases hw : withinChunkMax c chunk.length
        · exact absurd (.inr hw) hn
        · rfl
      exact .inr (.inr (.inr ⟨hu, rxFeed_payload hu⟩))
  · by_cases hn : need r < chunk.length
    · exact .inl ⟨_, rxFeed_overfeed_header hf hh hn⟩
    · exact .inr (.inr (.inl ⟨hf, rfl, h1, by omega, rxFeed_header hf hh h0 (by omega)⟩))

/-- RX_FEED in a header state answers NeedMore, or performs the state's operation once its bytes have arrived (R91). -/
theorem feedHeader_cases (c : Config) (chunk : List Byte) (r : RxHalf) :
    ((storeChunk chunk r).haveBytes.toNat < needTotal r.st ∧
      feedHeader c chunk r = (storeChunk chunk r).respond (.needMore (need (storeChunk chunk r)))) ∨
    (needTotal r.st ≤ (storeChunk chunk r).haveBytes.toNat ∧
      feedHeader c chunk r = headerOp c (storeChunk chunk r)) := by
  unfold feedHeader
  by_cases h : (storeChunk chunk r).haveBytes.toNat < needTotal r.st
  · exact .inl ⟨h, if_pos h⟩
  · exact .inr ⟨Nat.le_of_not_lt h, if_neg h⟩

/-- No header total exceeds the scratch buffer (R22, R102). -/
theorem needTotal_le (q : ParseState) : needTotal q ≤ 8 := by
  cases q <;> decide

/-- A chunk of at most `need` bytes raises `have` by its length without wrapping (R104). -/
theorem storeChunk_have {chunk : List Byte} {r : RxHalf} (h1 : 1 ≤ chunk.length) (hn : chunk.length ≤ need r) :
    (storeChunk chunk r).haveBytes.toNat = r.haveBytes.toNat + chunk.length := by
  have := needTotal_le r.st
  simp only [need] at *
  simp only [storeChunk_haveBytes, BitVec.toNat_ofNat]
  omega

/-! ### The operations of the header states (R93 to R97) -/

/-- HP.INITIAL faults on a reserved bit, faults on the opcode, or goes on to `Length`; the fields are written in each case. -/
theorem hpInitial_cases (r : RxHalf) :
    let b := r.scratch[0]
    let w : RxHalf := { r with fin := b0Fin b, rsv := b0Rsv b, opcode := b0Opcode b }
    (b0Rsv b ≠ 0 ∧ hpInitial r = raise .protocol .rsvNonzero w) ∨
    (b0Rsv b = 0 ∧ validOpcode (b0Opcode b) = false ∧ hpInitial r = raise .protocol .badOpcode w) ∨
    (b0Rsv b = 0 ∧ validOpcode (b0Opcode b) = true ∧
      hpInitial r = (w.goTo .length).respond (.needMore 1)) := by
  intro b w
  by_cases h : b0Rsv b = 0
  · rcases Bool.eq_false_or_eq_true (validOpcode (b0Opcode b)) with hv | hv
    · exact .inr (.inr ⟨h, hv, (if_neg (not_not.mpr h)).trans (if_neg (ne_false_of_eq_true hv))⟩)
    · exact .inr (.inl ⟨h, hv, (if_neg (not_not.mpr h)).trans (if_pos hv)⟩)
  · exact .inl ⟨h, if_pos h⟩

/-- HP.LENGTH faults without the mask bit, or goes on by the 7-bit field. -/
theorem hpLength_cases (r : RxHalf) :
    let b := r.scratch[0]
    let w : RxHalf := { r with masked := b1Mask b }
    (b1Mask b = false ∧ hpLength r = raise .protocol .noMask w) ∨
    (b1Mask b = true ∧ b1Len7 b = 126 ∧ hpLength r = (w.goTo .extendedLength16).respond (.needMore 2)) ∨
    (b1Mask b = true ∧ b1Len7 b = 127 ∧ hpLength r = (w.goTo .extendedLength64).respond (.needMore 8)) ∨
    (b1Mask b = true ∧ b1Len7 b ≠ 126 ∧ b1Len7 b ≠ 127 ∧
      hpLength r
        = (({ w with declaredLength := (b1Len7 b).setWidth 64 }).goTo .mask).respond (.needMore 4)) := by
  intro b w
  rcases Bool.eq_false_or_eq_true (b1Mask b) with hm | hm
  · have hm' : ¬ b1Mask b = false := by simp [hm]
    by_cases h6 : b1Len7 b = 126
    · exact .inr (.inl ⟨hm, h6, (if_neg hm').trans (if_pos h6)⟩)
    · by_cases h7 : b1Len7 b = 127
      · exact .inr (.inr (.inl ⟨hm, h7, (if_neg hm').trans ((if_neg h6).trans (if_pos h7))⟩))
      · exact .inr (.inr (.inr ⟨hm, h6, h7, (if_neg hm').trans ((if_neg h6).trans (if_neg h7))⟩))
  · exact .inl ⟨hm, if_pos hm⟩

/-- HP.EXT64 faults on the top bit or goes on to `Mask`; the length is written in both cases. -/
theorem hpExt64_cases (r : RxHalf) :
    let w : RxHalf := { r with declaredLength := be64 r.scratch }
    ((be64 r.scratch).getLsbD 63 = true ∧ hpExt64 r = raise .size .len63 w) ∨
    ((be64 r.scratch).getLsbD 63 = false ∧ hpExt64 r = (w.goTo .mask).respond (.needMore 4)) := by
  intro w
  rcases Bool.eq_false_or_eq_true ((be64 r.scratch).getLsbD 63) with h | h
  · exact .inl ⟨h, if_pos h⟩
  · exact .inr ⟨h, if_neg (ne_true_of_eq_false h)⟩

/-- The condition of LG. -/
theorem overCeiling_iff (c : Config) (r : RxHalf) :
    overCeiling c r = true ↔ c.maxPayload.toNat < r.msgTotal.toNat + r.declaredLength.toNat := by
  simp [overCeiling]

/-- HP.MASK faults above the ceiling or goes on to `Payload`; the key is written in both cases. -/
theorem hpMask_cases (c : Config) (r : RxHalf) :
    let w : RxHalf := { r with key := #v[r.scratch[0], r.scratch[1], r.scratch[2], r.scratch[3]] }
    (overCeiling c r = true ∧ hpMask c r = raise .size .ceiling w) ∨
    (overCeiling c r = false ∧
      hpMask c r
        = (({ w with
              msgTotal := BitVec.ofNat 64 (r.msgTotal.toNat + r.declaredLength.toNat)
              maxread := r.declaredLength
              payIdx := 0 }).goTo .payload).respond (.headerDone r.declaredLength)) := by
  have hw : overCeiling c { r with key := #v[r.scratch[0], r.scratch[1], r.scratch[2], r.scratch[3]] }
      = overCeiling c r := rfl
  cases h : overCeiling c r
  · exact .inr ⟨rfl, by simp only [hpMask, hw, h, Bool.false_eq_true, if_false]⟩
  · exact .inl ⟨rfl, by simp only [hpMask, hw, h, if_true]⟩

/-- The operation of a header state does not read the last response. -/
theorem headerOp_resp (c : Config) (r : RxHalf) (x : Option Response) (h : isHeader r.st = true) :
    headerOp c { r with resp := x } = headerOp c r := by
  obtain ⟨f, rsv, op, m, k, d, mr, st, hb, pi, sc, rf, cv, cc, mt, rp, rs, po⟩ := r
  cases st with
  | payload => simp [isHeader] at h
  | initial => simp only [headerOp, hpInitial, raise, RxHalf.respond, RxHalf.goTo]
  | length => simp only [headerOp, hpLength, raise, RxHalf.respond, RxHalf.goTo]
  | extendedLength16 => rfl
  | extendedLength64 => simp only [headerOp, hpExt64, raise, RxHalf.respond, RxHalf.goTo]
  | mask => simp only [headerOp, hpMask, overCeiling, raise, RxHalf.respond, RxHalf.goTo, decide_eq_true_eq]

/-- One byte fed in a state that needs one (`Initial`, `Length`) is that state's operation on it. -/
theorem rxFeed_one (c : Config) (b : Byte) (r : RxHalf) (h1 : r.rxFault = none) (h2 : needTotal r.st = 1)
    (h3 : r.haveBytes = 0) :
    rxFeed c [b] r = headerOp c { r with scratch := r.scratch.set 0 b, haveBytes := 1, rxs := r.rxs ++ [b] } := by
  have hh : isHeader r.st = true := by cases hs : r.st <;> simp_all [isHeader, needTotal]
  rw [rxFeed_header h1 hh (by simp) (by simp [need, h2, h3])]
  have e : storeChunk [b] r
      = { r with scratch := r.scratch.set 0 b, haveBytes := 1, rxs := r.rxs ++ [b] } := by
    simp only [storeChunk, memWrite, h3]
    congr 1
    exact setIfInBounds_eq_set _ _ _ _
  rcases feedHeader_cases c [b] r with ⟨h, _⟩ | ⟨_, e'⟩
  · rw [e, h2] at h; simp at h
  · rw [e', e]

/-! ### The writer (R135 to R139) -/

/-- TX_WRITE answers InvalidArgument and writes nothing, or writes the header and gives it out. -/
theorem txWrite_cases (op : BitVec 4) (len : BitVec 64) (t : TxHalf) :
    (validOpcode op = false ∧ txWrite op len t = t.respond (.invalidArgument .badOpcode)) ∨
    (validOpcode op = true ∧ txWrite op len t = emitHeader (hwLength len (hwByte0 op t))) := by
  cases h : validOpcode op <;> simp [txWrite, h]

/-- The writer takes the first form that holds the length (R135, R68). -/
theorem hwLength_cases (len : BitVec 64) (t : TxHalf) :
    (len.toNat ≤ 125 ∧ hwLength len t = hwLen7 (len.setWidth 7) t) ∨
    (125 < len.toNat ∧ len.toNat ≤ 65535 ∧ hwLength len t = hwLen16 (len.setWidth 16) t) ∨
    (65535 < len.toNat ∧ hwLength len t = hwLen64 len t) := by
  by_cases h1 : len.toNat ≤ 125
  · exact .inl ⟨h1, if_pos h1⟩
  · by_cases h2 : len.toNat ≤ 65535
    · exact .inr (.inl ⟨by omega, h2, (if_neg h1).trans (if_pos h2)⟩)
    · exact .inr (.inr ⟨by omega, (if_neg h1).trans (if_neg h2)⟩)

end Sys2Proof.Machine
end

