-- ==== Sys2Proof/Laws/Endpoint.lean ====
section
/-! SUPPORT. Laws of the host software: feeding chunk after chunk, the plan of `write`, and the passes of `read`. -/

namespace Sys2Proof.Machine

/-- Feeding a joined list is feeding its parts one after the other. -/
theorem feedChunks_append (c : Config) (xs ys : List (List Byte)) :
    ∀ r, feedChunks c (xs ++ ys) r = feedChunks c ys (feedChunks c xs r) := by
  induction xs with
  | nil => intro r; rfl
  | cons x xs ih => intro r; exact ih (rxFeed c x r)

/-- A payload of `len` bytes or more is cut to `len`; bytes beyond are not looked at. -/
theorem payloadOf_append (sent beyond : List Byte) : payloadOf (some (sent ++ beyond)) sent.length = some sent := by
  simp [payloadOf]

/-- A payload absent or shorter than `len` has no `len` bytes. -/
theorem payloadOf_short {payload : Option (List Byte)} {len : Nat} (h : (payload.getD []).length < len) :
    payloadOf payload len = none := by
  simp [payloadOf, Nat.not_le.mpr h]

/-- A channel ready within the bound is in time. -/
theorem waitExpires_in_time {bound ms : Nat} (ch : ChannelRead) (h : ms ≤ bound) :
    waitExpires bound ⟨some ms, ch⟩ = false := by
  simp [waitExpires, h]

/-- A pass without its wait goes straight to the channel read. -/
theorem readPass_skip (c : Config) (timeout : Nat) (p : Pass) (rd : Reader) :
    readPass c timeout true p rd = afterRead c p.channel rd := rfl

/-- So does a pass whose channel is ready in time. -/
theorem readPass_in_time {c : Config} {timeout : Nat} {skipWait : Bool} {p : Pass} {rd : Reader}
    (h : waitExpires (waitBound c timeout rd) p = false) :
    readPass c timeout skipWait p rd = afterRead c p.channel rd := by
  cases skipWait <;> simp [readPass, h]

/-- Where RX_START is accepted, `read` is its loop. -/
theorem hostRead_of_accepted {c : Config} {timeout : Nat} {ready : Bool} {passes : List Pass} {r : RxHalf}
    (hf : r.rxFault = none) (hs : r.st = .initial ∨ frameDone r = true) :
    hostRead c timeout ready passes r = readLoop c timeout ready passes ⟨rxStart r, none, []⟩ := by
  rcases startWith_cases (fun q => clearTotal (clearFrame q)) r with ⟨h, -⟩ | ⟨-, h, h', -⟩ | ⟨-, -, e⟩
  · exact absurd hf h
  · rcases hs with hs | hs
    · exact absurd hs h
    · rw [h'] at hs; cases hs
  · have hr : (rxStart r).resp = some .ok := by rw [rxStart, e]; rfl
    simp only [hostRead, hr]

/-- Where it is refused, `read` is stuck with nothing but that answer written. -/
theorem hostRead_of_refused {c : Config} {timeout : Nat} {ready : Bool} {passes : List Pass} {r : RxHalf} {w : RefuseReason}
    (h : rxStart r = refuse w r) : hostRead c timeout ready passes r = .stuck (refuse w r) := by
  simp only [hostRead, h, refuse, RxHalf.respond]

end Sys2Proof.Machine
end

