-- ==== Sys2Proof/Laws/PerInstr.lean ====
section
/-! SUPPORT. The family TableRow: the encoder puts every well-formed instruction on its own row of opcode_table.json. -/

namespace Sys2Proof.Laws.TableRow

/-- The code of an input as the table numbers it: the byte of a wire format, or the code of ST, RXCMD, TXCMD. -/
def code : Input → Nat
  | .reset => 0
  | .rxB0 b => b.toNat
  | .rxB1 b => b.toNat
  | .txB0 b => b.toNat
  | .txB1 [] => 0
  | .txB1 (b :: _) => b.toNat
  | .st c _ => c.toNat
  | .rxCmd c _ => c.toNat
  | .txCmd c _ _ => c.toNat

/-- The table's format of an input. -/
def format : Input → String
  | .reset => ""
  | .rxB0 _ => "RX.B0"
  | .rxB1 _ => "RX.B1"
  | .txB0 _ => "TX.B0"
  | .txB1 _ => "TX.B1"
  | .st _ _ => "ST"
  | .rxCmd _ _ => "RXCMD"
  | .txCmd _ _ _ => "TXCMD"

/-- The row of an instruction: its format, match and mask, copied from opcode_table.json. -/
def row : Instr → String × Nat × Nat
  | .cont _ => ("RX.B0", 0x00, 0x7F)
  | .text _ => ("RX.B0", 0x01, 0x7F)
  | .bin _ => ("RX.B0", 0x02, 0x7F)
  | .close _ => ("RX.B0", 0x08, 0x7F)
  | .ping _ => ("RX.B0", 0x09, 0x7F)
  | .pong _ => ("RX.B0", 0x0A, 0x7F)
  | .len64 => ("RX.B1", 0xFF, 0xFF)
  | .len16 => ("RX.B1", 0xFE, 0xFF)
  | .len7 _ => ("RX.B1", 0x80, 0x80)
  | .tCont => ("TX.B0", 0x80, 0xFF)
  | .tText => ("TX.B0", 0x81, 0xFF)
  | .tBin => ("TX.B0", 0x82, 0xFF)
  | .tClose => ("TX.B0", 0x88, 0xFF)
  | .tPing => ("TX.B0", 0x89, 0xFF)
  | .tPong => ("TX.B0", 0x8A, 0xFF)
  | .tLen64 _ => ("TX.B1", 0x7F, 0xFF)
  | .tLen16 _ => ("TX.B1", 0x7E, 0xFF)
  | .tLen7 _ => ("TX.B1", 0x00, 0x80)
  | .hpInitial => ("ST", 0x0, 0x7)
  | .hpLength => ("ST", 0x1, 0x7)
  | .hpExt16 => ("ST", 0x2, 0x7)
  | .hpExt64 => ("ST", 0x3, 0x7)
  | .hpMask => ("ST", 0x4, 0x7)
  | .umXor _ => ("ST", 0x5, 0x7)
  | .rxReset => ("RXCMD", 0x0, 0x7)
  | .rxStart => ("RXCMD", 0x1, 0x7)
  | .rxNext => ("RXCMD", 0x2, 0x7)
  | .rxFeed _ => ("RXCMD", 0x3, 0x7)
  | .rxChfail => ("RXCMD", 0x4, 0x7)
  | .rxTimeout => ("RXCMD", 0x5, 0x7)
  | .rxReserved _ => ("RXCMD", 0x6, 0x6)
  | .txReset => ("TXCMD", 0x0, 0x1)
  | .txWrite _ _ => ("TXCMD", 0x1, 0x1)

/-- `encode` lands in the row's format, and its code under the row's mask is the row's match (R86). -/
def Statement (i : Instr) : Prop :=
  i.wellFormed = true →
    format (encode i) = (row i).1 ∧ code (encode i) &&& (row i).2.2 = (row i).2.1

theorem cont (fin : Bool) : Statement (.cont fin) := by cases fin <;> simp +decide [Statement]
theorem text (fin : Bool) : Statement (.text fin) := by cases fin <;> simp +decide [Statement]
theorem bin (fin : Bool) : Statement (.bin fin) := by cases fin <;> simp +decide [Statement]
theorem close (fin : Bool) : Statement (.close fin) := by cases fin <;> simp +decide [Statement]
theorem ping (fin : Bool) : Statement (.ping fin) := by cases fin <;> simp +decide [Statement]
theorem pong (fin : Bool) : Statement (.pong fin) := by cases fin <;> simp +decide [Statement]
theorem len64 : Statement .len64 := by simp +decide [Statement]
theorem len16 : Statement .len16 := by simp +decide [Statement]
theorem len7 (len : BitVec 7) : Statement (.len7 len) := by
  intro _
  revert len
  decide
theorem tCont : Statement .tCont := by simp +decide [Statement]
theorem tText : Statement .tText := by simp +decide [Statement]
theorem tBin : Statement .tBin := by simp +decide [Statement]
theorem tClose : Statement .tClose := by simp +decide [Statement]
theorem tPing : Statement .tPing := by simp +decide [Statement]
theorem tPong : Statement .tPong := by simp +decide [Statement]
theorem tLen64 (len : BitVec 64) : Statement (.tLen64 len) := by
  simp +decide [Statement, encode, code, format, row]
theorem tLen16 (len : BitVec 16) : Statement (.tLen16 len) := by
  simp +decide [Statement, encode, code, format, row]
theorem tLen7 (len : BitVec 7) : Statement (.tLen7 len) := by
  intro _
  revert len
  decide
theorem hpInitial : Statement .hpInitial := by simp +decide [Statement]
theorem hpLength : Statement .hpLength := by simp +decide [Statement]
theorem hpExt16 : Statement .hpExt16 := by simp +decide [Statement]
theorem hpExt64 : Statement .hpExt64 := by simp +decide [Statement]
theorem hpMask : Statement .hpMask := by simp +decide [Statement]
theorem umXor (chunk : List Byte) : Statement (.umXor chunk) := by
  simp +decide [Statement, encode, code, format, row]
theorem rxReset : Statement .rxReset := by simp +decide [Statement]
theorem rxStart : Statement .rxStart := by simp +decide [Statement]
theorem rxNext : Statement .rxNext := by simp +decide [Statement]
theorem rxFeed (chunk : List Byte) : Statement (.rxFeed chunk) := by
  simp +decide [Statement, encode, code, format, row]
theorem rxChfail : Statement .rxChfail := by simp +decide [Statement]
theorem rxTimeout : Statement .rxTimeout := by simp +decide [Statement]
theorem rxReserved (low : BitVec 1) : Statement (.rxReserved low) := by
  intro _
  revert low
  decide
theorem txReset : Statement .txReset := by simp +decide [Statement]
theorem txWrite (op : BitVec 4) (len : BitVec 64) : Statement (.txWrite op len) := by
  simp +decide [Statement, encode, code, format, row]

end Sys2Proof.Laws.TableRow
end

