-- ==== Sys2Proof/Laws/Step.lean ====
section
/-! SUPPORT. Once, everything an instruction can do to each half; invariants and frames over all instructions follow by cases
on `RxMove` and do not unfold a meaning. -/

namespace Sys2Proof.Machine

open Sys2Proof.Safety

/-- Everything an instruction that is not of the TX half can make of the RX half `r`. -/
inductive RxMove (c : Config) (r : RxHalf) : Instr → RxHalf → Prop where
  /-- the command is refused (R190) -/
  | refused {i : Instr} (w : RefuseReason) : RxMove c r i (refuse w r)
  /-- the channel failed between frames or in a payload (R154) -/
  | channelFailed {i : Instr} (hf : r.rxFault = none) (hd : frameDone r = false) (hs : r.st = .initial ∨ r.st = .payload) :
      RxMove c r i (raise .channel .readFailed r)
  /-- the channel failed, or a wait expired, in a begun frame (R154, R155) -/
  | begunFailed {i : Instr} (w : Reason) (hf : r.rxFault = none) (hd : frameDone r = false) (hs : r.st ≠ .initial) :
      RxMove c r i (raise .protocol w r)
  /-- a wait expired before a frame began (R155) -/
  | idle {i : Instr} (hf : r.rxFault = none) (hs : r.st = .initial) : RxMove c r i (r.respond .noFrame)
  /-- header bytes taken, more to come (R91) -/
  | headerBytes {i : Instr} (chunk : List Byte) (hf : r.rxFault = none) (hh : isHeader r.st = true)
      (h1 : 1 ≤ chunk.length) (hn : r.haveBytes.toNat + chunk.length < needTotal r.st) :
      RxMove c r i ((storeChunk chunk r).respond (.needMore (needTotal r.st - (r.haveBytes.toNat + chunk.length))))
  /-- the last header bytes of the state taken, and its operation performed (R91) -/
  | headerField {i : Instr} (chunk : List Byte) (hf : r.rxFault = none) (hh : isHeader r.st = true)
      (h1 : 1 ≤ chunk.length) (hn : r.haveBytes.toNat + chunk.length = needTotal r.st) :
      RxMove c r i (headerOp c (storeChunk chunk r))
  /-- the operation of a header state by itself (log entry 3) -/
  | operation {i : Instr} (hf : r.rxFault = none) (hh : isHeader r.st = true) (hn : r.haveBytes.toNat = needTotal r.st) :
      RxMove c r i (headerOp c r)
  /-- payload bytes unmasked (R120) -/
  | payload {i : Instr} (chunk : List Byte) (hu : unmasks c chunk r = true) : RxMove c r i (umXor chunk r)
  /-- RX_RESET (R151) -/
  | reset : RxMove c r .rxReset ((clearRx r).respond .ok)
  /-- RX_START accepted (R152) -/
  | start (hf : r.rxFault = none) (hs : r.st = .initial ∨ frameDone r = true) :
      RxMove c r .rxStart ((clearTotal (clearFrame r)).respond .ok)
  /-- RX_NEXT accepted (R153) -/
  | next (hf : r.rxFault = none) (hs : r.st = .initial ∨ frameDone r = true) :
      RxMove c r .rxNext ((clearFrame r).respond .ok)

/-- RX_CHFAIL by its moves. -/
theorem rxChfail_move (c : Config) (i : Instr) (r : RxHalf) : RxMove c r i (rxChfail r) := by
  unfold rxChfail
  by_cases hf : r.rxFault = none
  swap
  · simpa [hf] using RxMove.refused (c := c) (r := r) (i := i) .faulted
  cases hd : frameDone r
  swap
  · simpa [hf, hd] using RxMove.refused (c := c) (r := r) (i := i) .frameComplete
  cases hs : r.st <;> simp only [hf, ne_eq, not_true_eq_false, if_false, Bool.false_eq_true]
  · exact .channelFailed hf hd (.inl hs)
  · exact .begunFailed _ hf hd (by simp [hs])
  · exact .begunFailed _ hf hd (by simp [hs])
  · exact .begunFailed _ hf hd (by simp [hs])
  · exact .begunFailed _ hf hd (by simp [hs])
  · exact .channelFailed hf hd (.inr hs)

/-- RX_TIMEOUT by its moves. -/
theorem rxTimeout_move (c : Config) (i : Instr) (r : RxHalf) : RxMove c r i (rxTimeout r) := by
  unfold rxTimeout
  by_cases hf : r.rxFault = none
  swap
  · simpa [hf] using RxMove.refused (c := c) (r := r) (i := i) .faulted
  cases hd : frameDone r
  swap
  · simpa [hf, hd] using RxMove.refused (c := c) (r := r) (i := i) .frameComplete
  by_cases hs : r.st = .initial
  · simpa [hf, hd, hs] using RxMove.idle (c := c) (i := i) hf hs
  · simpa [hf, hd, hs] using RxMove.begunFailed (c := c) (i := i) .inProgressTimeout hf hd hs

/-- RX_FEED by its moves. -/
theorem rxFeed_move (c : Config) (i : Instr) (chunk : List Byte) (r : RxHalf) : RxMove c r i (rxFeed c chunk r) := by
  rcases rxFeed_cases c chunk r with ⟨w, e⟩ | ⟨-, -, -, e⟩ | ⟨hf, hh, h1, hn, e⟩ | ⟨hu, e⟩
  · rw [e]; exact .refused w
  · rw [e]; exact rxChfail_move c i r
  · have hv := storeChunk_have h1 hn
    have hle : r.haveBytes.toNat + chunk.length ≤ needTotal r.st := by
      simp only [need] at hn
      omega
    rw [e]
    rcases feedHeader_cases c chunk r with ⟨h, e'⟩ | ⟨h, e'⟩
    · rw [hv] at h
      have hk : need (storeChunk chunk r) = needTotal r.st - (r.haveBytes.toNat + chunk.length) := by
        simp only [need, hv, storeChunk_st]
      rw [e', hk]
      exact .headerBytes chunk hf hh h1 h
    · rw [hv] at h
      rw [e']
      exact .headerField chunk hf hh h1 (by omega)
  · rw [e]; exact .payload chunk hu

/-- A header state's operation presented by itself, by its moves. -/
theorem performed_move {c : Config} {q : ParseState} {f : RxHalf → RxHalf} {i : Instr} {s t : State}
    (hq : isHeader q = true) (hop : s.rx.st = q → headerOp c s.rx = f s.rx)
    (h : performed (performs q s.rx) f s = .next t) :
    t = { s with rx := t.rx } ∧ RxMove c s.rx i t.rx := by
  obtain ⟨hp, rfl⟩ := performed_eq_next.mp h
  obtain ⟨hf, hs, hn⟩ := (performs_iff q s.rx).mp hp
  refine ⟨rfl, ?_⟩
  have : (s.onRx f).rx = headerOp c s.rx := (hop hs).symm
  rw [this]
  exact .operation hf (by rw [hs]; exact hq) (by rw [hs]; exact hn)

/-- Everything an instruction that is not of the TX half does: it moves the RX half by one `RxMove` and changes nothing
else. -/
theorem exec_rxMove {i : Instr} {s t : State} (hi : isTx i = false) (h : exec i s = .next t) :
    t = { s with rx := t.rx } ∧ RxMove s.config s.rx i t.rx := by
  cases i with
  | cont fin => cases h; exact ⟨rfl, rxFeed_move _ _ _ _⟩
  | text fin => cases h; exact ⟨rfl, rxFeed_move _ _ _ _⟩
  | bin fin => cases h; exact ⟨rfl, rxFeed_move _ _ _ _⟩
  | close fin => cases h; exact ⟨rfl, rxFeed_move _ _ _ _⟩
  | ping fin => cases h; exact ⟨rfl, rxFeed_move _ _ _ _⟩
  | pong fin => cases h; exact ⟨rfl, rxFeed_move _ _ _ _⟩
  | len64 => cases h; exact ⟨rfl, rxFeed_move _ _ _ _⟩
  | len16 => cases h; exact ⟨rfl, rxFeed_move _ _ _ _⟩
  | len7 len => cases h; exact ⟨rfl, rxFeed_move _ _ _ _⟩
  | rxFeed chunk => cases h; exact ⟨rfl, rxFeed_move _ _ _ _⟩
  | rxChfail => cases h; exact ⟨rfl, rxChfail_move _ _ _⟩
  | rxTimeout => cases h; exact ⟨rfl, rxTimeout_move _ _ _⟩
  | rxReserved low => cases h; exact ⟨rfl, .refused .badCommand⟩
  | rxReset => cases h; exact ⟨rfl, .reset⟩
  | rxStart =>
    cases h
    refine ⟨rfl, ?_⟩
    show RxMove s.config s.rx .rxStart (rxStart s.rx)
    rcases startWith_cases (fun q => clearTotal (clearFrame q)) s.rx with ⟨-, e⟩ | ⟨-, -, -, e⟩ | ⟨hf, hs, e⟩
    · rw [rxStart, e]; exact .refused _
    · rw [rxStart, e]; exact .refused _
    · rw [rxStart, e]; exact .start hf hs
  | rxNext =>
    cases h
    refine ⟨rfl, ?_⟩
    show RxMove s.config s.rx .rxNext (rxNext s.rx)
    rcases startWith_cases clearFrame s.rx with ⟨-, e⟩ | ⟨-, -, -, e⟩ | ⟨hf, hs, e⟩
    · rw [rxNext, e]; exact .refused _
    · rw [rxNext, e]; exact .refused _
    · rw [rxNext, e]; exact .next hf hs
  | hpInitial => exact performed_move rfl (fun e => by simp only [headerOp, e]) h
  | hpLength => exact performed_move rfl (fun e => by simp only [headerOp, e]) h
  | hpExt16 => exact performed_move rfl (fun e => by simp only [headerOp, e]) h
  | hpExt64 => exact performed_move rfl (fun e => by simp only [headerOp, e]) h
  | hpMask => exact performed_move rfl (fun e => by simp only [headerOp, e]) h
  | umXor chunk =>
    obtain ⟨hu, rfl⟩ := performed_eq_next.mp h
    exact ⟨rfl, .payload chunk hu⟩
  | tCont => simp [isTx] at hi
  | tText => simp [isTx] at hi
  | tBin => simp [isTx] at hi
  | tClose => simp [isTx] at hi
  | tPing => simp [isTx] at hi
  | tPong => simp [isTx] at hi
  | tLen64 len => simp [isTx] at hi
  | tLen16 len => simp [isTx] at hi
  | tLen7 len => simp [isTx] at hi
  | txReset => simp [isTx] at hi
  | txWrite op len => simp [isTx] at hi

/-- What an instruction that is not of the TX half makes of the RX half, as a function of it and the configuration; `none` where
an operation of format ST is not performed. -/
def rxAct (c : Config) : Instr → RxHalf → Option RxHalf
  | .cont fin, r => some (rxFeed c [mkB0 fin opCont] r)
  | .text fin, r => some (rxFeed c [mkB0 fin opText] r)
  | .bin fin, r => some (rxFeed c [mkB0 fin opBin] r)
  | .close fin, r => some (rxFeed c [mkB0 fin opClose] r)
  | .ping fin, r => some (rxFeed c [mkB0 fin opPing] r)
  | .pong fin, r => some (rxFeed c [mkB0 fin opPong] r)
  | .len64, r => some (rxFeed c [0xFF] r)
  | .len16, r => some (rxFeed c [0xFE] r)
  | .len7 len, r => some (rxFeed c [mkB1 true len] r)
  | .hpInitial, r => if performs .initial r then some (hpInitial r) else none
  | .hpLength, r => if performs .length r then some (hpLength r) else none
  | .hpExt16, r => if performs .extendedLength16 r then some (hpExt16 r) else none
  | .hpExt64, r => if performs .extendedLength64 r then some (hpExt64 r) else none
  | .hpMask, r => if performs .mask r then some (hpMask c r) else none
  | .umXor chunk, r => if unmasks c chunk r then some (umXor chunk r) else none
  | .rxReset, r => some (rxReset r)
  | .rxStart, r => some (rxStart r)
  | .rxNext, r => some (rxNext r)
  | .rxFeed chunk, r => some (rxFeed c chunk r)
  | .rxChfail, r => some (rxChfail r)
  | .rxTimeout, r => some (rxTimeout r)
  | .rxReserved _, r => some (rxReserved r)
  | _, _ => none

/-- The outcome of `rxAct` in the block. -/
def rxOutcome (s : State) : Option RxHalf → Host.Outcome State Fault Refusal
  | some r => .next { s with rx := r }
  | none => .refused .operationNotPerformed

/-- An instruction that is not of the TX half reads the RX half and the configuration alone, and writes the RX half alone. -/
theorem exec_rxAct {i : Instr} (s : State) (hi : isTx i = false) : exec i s = rxOutcome s (rxAct s.config i s.rx) := by
  have hp : ∀ (b : Bool) (f : RxHalf → RxHalf),
      performed b f s = rxOutcome s (if b then some (f s.rx) else none) := by
    intro b f
    cases b <;> rfl
  cases i <;> first | rfl | exact hp _ _ | simp [isTx] at hi

/-- What an instruction of the TX half does to it. -/
def txMove : Instr → TxHalf → TxHalf
  | .tCont => hwByte0 opCont
  | .tText => hwByte0 opText
  | .tBin => hwByte0 opBin
  | .tClose => hwByte0 opClose
  | .tPing => hwByte0 opPing
  | .tPong => hwByte0 opPong
  | .tLen64 len => hwLen64 len
  | .tLen16 len => hwLen16 len
  | .tLen7 len => hwLen7 len
  | .txReset => txReset
  | .txWrite op len => txWrite op len
  | _ => id

/-- Everything an instruction of the TX half does: it always answers a next state, which differs in the TX half alone. -/
theorem exec_txMove {i : Instr} (s : State) (hi : isTx i = true) : exec i s = .next (s.onTx (txMove i)) := by
  cases i <;> first | rfl | simp [isTx] at hi

/-- `txh_len` after an instruction of the TX half: kept, or one of the four values (R27). -/
theorem txMove_txhLen (i : Instr) (t : TxHalf) :
    (txMove i t).txhLen = t.txhLen ∨ (txMove i t).txhLen = 0 ∨ (txMove i t).txhLen = 2 ∨ (txMove i t).txhLen = 4 ∨
      (txMove i t).txhLen = 10 := by
  cases i with
  | txWrite op len =>
    rw [show txMove (.txWrite op len) t = txWrite op len t from rfl]
    rcases txWrite_cases op len t with ⟨-, e⟩ | ⟨-, e⟩
    · exact .inl (by rw [e]; rfl)
    · right
      rw [e]
      have hl : (emitHeader (hwLength len (hwByte0 op t))).txhLen = (hwLength len (hwByte0 op t)).txhLen := rfl
      rw [hl]
      rcases hwLength_cases len (hwByte0 op t) with ⟨-, e'⟩ | ⟨-, -, e'⟩ | ⟨-, e'⟩
      · exact .inr (.inl (congrArg TxHalf.txhLen e'))
      · exact .inr (.inr (.inl (congrArg TxHalf.txhLen e')))
      · exact .inr (.inr (.inr (congrArg TxHalf.txhLen e')))
  | tLen7 len => exact .inr (.inr (.inl rfl))
  | tLen16 len => exact .inr (.inr (.inr (.inl rfl)))
  | tLen64 len => exact .inr (.inr (.inr (.inr rfl)))
  | txReset => exact .inr (.inl rfl)
  | tCont => exact .inl rfl
  | tText => exact .inl rfl
  | tBin => exact .inl rfl
  | tClose => exact .inl rfl
  | tPing => exact .inl rfl
  | tPong => exact .inl rfl
  | _ => exact .inl rfl

end Sys2Proof.Machine
end

