-- ==== Sys2Proof/Tests/Slice0.lean ====
section
/-! SUPPORT. The model's own tests: ill-formed terms refused, words of the spec's encodings decoded, vectors of
95_test_vectors.md as single steps, and for each statement with hypotheses a witness that meets them together. Every expected
value is the spec's. -/

namespace Sys2Proof.Tests

open Sys2Proof.Machine Sys2Proof.Safety Sys2Proof.Stated

/-! ### Small states -/

/-- What a next state shows; `none` on a stop. -/
def seen {α : Type} (f : State → α) : Host.Outcome State Fault Refusal → Option α
  | .next t => some (f t)
  | .fault _ => none
  | .refused _ => none

/-- The reason of a stop by name. -/
def stopped : Host.Outcome State Fault Refusal → Option Refusal
  | .next _ => none
  | .fault _ => none
  | .refused r => some r

/-- The block in parse state `q` with `n` bytes of it in `scratch`. -/
def parsing (q : ParseState) (n : BitVec 4) (scratch : Vector Byte 8) : State :=
  { State.reset with rx := { RxHalf.reset with st := q, haveBytes := n, scratch := scratch } }

/-- The block in `Payload`. -/
def paying (key : Vector Byte 4) (idx max : BitVec 64) : State :=
  { State.reset with rx :=
    { RxHalf.reset with
      st := .payload, fin := true, opcode := 1, masked := true, key := key, declaredLength := max, maxread := max
      payIdx := idx } }

/-- A state in `Payload` with five bytes to come. -/
def five : State := paying #v[0x37, 0xFA, 0x21, 0x3D] 0 5

/-- The block in `Mask` with all key bytes arrived, under a ceiling (V3). -/
def keyed (ceiling total len : BitVec 64) : State :=
  { State.reset with
    config := { Config.standard with maxPayload := ceiling }
    rx := { RxHalf.reset with st := .mask, haveBytes := 4, declaredLength := len, msgTotal := total, masked := true } }

/-- The block after the fault of V1.4. -/
def faulted : State :=
  { State.reset with rx :=
    { RxHalf.reset with rxFault := some .protocol, ccValid := true, closeCode := 1002, haveBytes := 1, opcode := 1 } }

/-- The block with inputs waiting. -/
def waiting (l : List Input) : State := { State.reset with stream := l }

/-- PAY_CHUNK_MAX is unbounded by default (R5). -/
theorem chunk_unbounded (n : Nat) : chunkAllowed Config.standard n := by
  intro k h
  cases h

/-! ### WellFormed: an ill-formed term for each check (R63, R64, R68, R5) -/

theorem test_len7_ill_formed : (Instr.len7 126).wellFormed = false ∧ (Instr.len7 127).wellFormed = false := by decide

theorem test_tLen7_ill_formed : (Instr.tLen7 126).wellFormed = false ∧ (Instr.tLen7 127).wellFormed = false := by decide

theorem test_len7_well_formed : (Instr.len7 125).wellFormed = true ∧ (Instr.tLen7 0).wellFormed = true := by decide

theorem test_config_ill_formed :
    ({ Config.standard with maxPayload := 0x8000000000000000 } : Config).wellFormed = false ∧
    ({ Config.standard with payChunkMax := some 0 } : Config).wellFormed = false ∧
    ({ Config.standard with scratchBytes := 9 } : Config).wellFormed = false ∧
    ({ Config.standard with keyBytes := 0 } : Config).wellFormed = false ∧
    ({ Config.standard with lenBits := 63 } : Config).wellFormed = false ∧
    ({ Config.standard with lenMax := 2 ^ 63 } : Config).wellFormed = false ∧
    ({ Config.standard with txhBytes := 14 } : Config).wellFormed = false ∧
    Config.standard.wellFormed = true := by decide

/-! ### Decoding, one word per constructor, bit by bit (30_encoding.md sections 1 to 6, opcode_table.json) -/

theorem test_decode_rxB0 :
    decode (.rxB0 0b00000000) = .ok (.cont false) ∧ decode (.rxB0 0b10000001) = .ok (.text true) ∧
    decode (.rxB0 0b10000010) = .ok (.bin true) ∧ decode (.rxB0 0b00001000) = .ok (.close false) ∧
    decode (.rxB0 0b10001001) = .ok (.ping true) ∧ decode (.rxB0 0b10001010) = .ok (.pong true) := by decide

theorem test_decode_rxB0_refused :
    decode (.rxB0 0xC1) = .error .rsvNonzero ∧ decode (.rxB0 0xA1) = .error .rsvNonzero ∧
    decode (.rxB0 0x91) = .error .rsvNonzero ∧ decode (.rxB0 0xC3) = .error .rsvNonzero ∧
    decode (.rxB0 0x83) = .error .badOpcode ∧ decode (.rxB0 0x0F) = .error .badOpcode := by decide

theorem test_decode_rxB1 :
    decode (.rxB1 0b11111111) = .ok .len64 ∧ decode (.rxB1 0b11111110) = .ok .len16 ∧
    decode (.rxB1 0b10000101) = .ok (.len7 5) ∧ decode (.rxB1 0b11111101) = .ok (.len7 125) ∧
    decode (.rxB1 0b01111110) = .error .noMask ∧ decode (.rxB1 0b00000101) = .error .noMask := by decide

theorem test_decode_txB0 :
    decode (.txB0 0b10000000) = .ok .tCont ∧ decode (.txB0 0b10000001) = .ok .tText ∧
    decode (.txB0 0b10000010) = .ok .tBin ∧ decode (.txB0 0b10001000) = .ok .tClose ∧
    decode (.txB0 0b10001001) = .ok .tPing ∧ decode (.txB0 0b10001010) = .ok .tPong ∧
    decode (.txB0 0b00000001) = .error .notEmitted := by decide

theorem test_decode_txB1 :
    decode (.txB1 [0b01111111, 0, 0, 0, 0, 0, 1, 0, 0]) = .ok (.tLen64 65536) ∧
    decode (.txB1 [0b01111110, 0x01, 0x00]) = .ok (.tLen16 256) ∧
    decode (.txB1 [0b01111101]) = .ok (.tLen7 125) ∧
    decode (.txB1 [0b10000101]) = .error .badExtension ∧ decode (.txB1 [0b01111110]) = .error .badExtension := by
  decide

theorem test_decode_st :
    decode (.st 0b000 []) = .ok .hpInitial ∧ decode (.st 0b001 []) = .ok .hpLength ∧
    decode (.st 0b010 []) = .ok .hpExt16 ∧ decode (.st 0b011 []) = .ok .hpExt64 ∧
    decode (.st 0b100 []) = .ok .hpMask ∧ decode (.st 0b101 [0x7F]) = .ok (.umXor [0x7F]) ∧
    decode (.st 0b110 []) = .error .unusedState ∧ decode (.st 0b111 []) = .error .unusedState := by decide

theorem test_decode_rxCmd :
    decode (.rxCmd 0b000 []) = .ok .rxReset ∧ decode (.rxCmd 0b001 []) = .ok .rxStart ∧
    decode (.rxCmd 0b010 []) = .ok .rxNext ∧ decode (.rxCmd 0b011 [0x81]) = .ok (.rxFeed [0x81]) ∧
    decode (.rxCmd 0b100 []) = .ok .rxChfail ∧ decode (.rxCmd 0b101 []) = .ok .rxTimeout ∧
    decode (.rxCmd 0b110 []) = .ok (.rxReserved 0) ∧ decode (.rxCmd 0b111 []) = .ok (.rxReserved 1) := by decide

theorem test_decode_txCmd :
    decode (.txCmd 0b0 0 0) = .ok .txReset ∧ decode (.txCmd 0b1 0b1000 2) = .ok (.txWrite 8 2) := by decide

/-- The encodings of P1's byte 0 and byte 1, and of S2's 65535 and 65536. -/
theorem test_encode :
    encode (.text true) = .rxB0 0x81 ∧ encode (.len7 5) = .rxB1 0x85 ∧
    encode (.tLen16 65535) = .txB1 [0x7E, 0xFF, 0xFF] ∧
    encode (.tLen64 65536) = .txB1 [0x7F, 0, 0, 0, 0, 0, 1, 0, 0] := by decide

/-- Unlabelled table words: one row of each format that some word reaches (log entry 10). -/
theorem test_decodeTableWord :
    decodeTableWord 8 0x03 = some (.rxFeed []) ∧ decodeTableWord 8 0x81 = some .tText ∧
    decodeTableWord 8 0x08 = some (.close false) ∧ decodeTableWord 8 0xFE = some .len16 ∧
    decodeTableWord 8 0x7E = some (.tLen16 0) ∧ decodeTableWord 8 0x7F = some (.tLen64 0) ∧
    decodeTableWord 8 0x33 = some (.tLen7 51) := by decide

theorem test_step_runs_table_word :
    seen (fun t => (t.tx.txh[0], t.stream)) (step (State.reset.withFetchWord 8 0x8A)) = some (0x8A, []) := by decide

/-! ### Wire forms on receive (V1) -/

theorem test_cont : seen (fun t => (t.rx.st, t.rx.fin, t.rx.opcode, t.rx.resp)) (exec (.cont false) State.reset)
    = some (.length, false, 0, some (.needMore 1)) := by decide

theorem test_text : seen (fun t => (t.rx.st, t.rx.haveBytes, t.rx.fin, t.rx.opcode, t.rx.scratch[0]))
    (exec (.text true) State.reset) = some (.length, 0, true, 1, 0x81) := by decide

theorem test_bin : seen (fun t => (t.rx.opcode, t.rx.fin)) (exec (.bin true) State.reset) = some (2, true) := by decide

theorem test_close : seen (fun t => (t.rx.opcode, t.rx.fin, t.rx.rxFault)) (exec (.close false) State.reset)
    = some (8, false, none) := by decide

theorem test_ping : seen (fun t => (t.rx.opcode, t.rx.scratch[0])) (exec (.ping true) State.reset)
    = some (9, 0x89) := by decide

theorem test_pong : seen (fun t => (t.rx.opcode, t.rx.fin)) (exec (.pong true) State.reset) = some (0xA, true) := by
  decide

theorem test_len64 : seen (fun t => (t.rx.st, t.rx.declaredLength, t.rx.resp))
    (exec .len64 (parsing .length 0 (Vector.replicate 8 0))) = some (.extendedLength64, 0, some (.needMore 8)) := by
  decide

theorem test_len16 : seen (fun t => (t.rx.st, t.rx.masked, t.rx.resp))
    (exec .len16 (parsing .length 0 (Vector.replicate 8 0))) = some (.extendedLength16, true, some (.needMore 2)) := by
  decide

theorem test_len7 : seen (fun t => (t.rx.st, t.rx.masked, t.rx.declaredLength, t.rx.resp))
    (exec (.len7 125) (parsing .length 0 (Vector.replicate 8 0))) = some (.mask, true, 125, some (.needMore 4)) := by
  decide

/-! ### The writer (V5) -/

/-- `txh` as V5.19 leaves it after `TX_WRITE(2, 256)`. -/
def written : State :=
  { State.reset with tx := { TxHalf.reset with txh := #v[0x82, 0x7E, 1, 0, 0, 0, 0, 0, 0, 0], txhLen := 4 } }

theorem test_tCont : seen (fun t => t.tx.txh[0]) (exec .tCont written) = some 0x80 := by decide
theorem test_tText : seen (fun t => t.tx.txh[0]) (exec .tText written) = some 0x81 := by decide
theorem test_tBin : seen (fun t => t.tx.txh[0]) (exec .tBin State.reset) = some 0x82 := by decide
theorem test_tClose : seen (fun t => t.tx.txh[0]) (exec .tClose written) = some 0x88 := by decide
theorem test_tPing : seen (fun t => t.tx.txh[0]) (exec .tPing written) = some 0x89 := by decide
theorem test_tPong : seen (fun t => (t.tx.txh[0], t.tx.txh[1])) (exec .tPong written) = some (0x8A, 0x7E) := by decide

theorem test_tLen64 : seen (fun t => (t.tx.txh, t.tx.txhLen)) (exec (.tLen64 26214400) State.reset)
    = some (#v[0, 0x7F, 0, 0, 0, 0, 0x01, 0x90, 0, 0], 10) := by decide

theorem test_tLen16 : seen (fun t => (t.tx.txh, t.tx.txhLen)) (exec (.tLen16 127) State.reset)
    = some (#v[0, 0x7E, 0, 0x7F, 0, 0, 0, 0, 0, 0], 4) := by decide

theorem test_tLen7 : seen (fun t => (t.tx.txh, t.tx.txhLen)) (exec (.tLen7 0) written)
    = some (#v[0x82, 0, 1, 0, 0, 0, 0, 0, 0, 0], 2) := by decide

/-- V5.19, last command: bytes 2 and 3 keep old values. -/
theorem test_txWrite_keeps_old_bytes :
    seen (fun t => (t.tx.txh, t.tx.txhLen, t.tx.resp)) (exec (.txWrite 1 0) written)
      = some (#v[0x81, 0, 1, 0, 0, 0, 0, 0, 0, 0], 2, some (.header [0x81, 0])) := by decide

/-- V5.13: the top bit is not tested. -/
theorem test_txWrite_longest :
    seen (fun t => t.tx.resp) (exec (.txWrite 2 0xFFFFFFFFFFFFFFFF) State.reset)
      = some (some (.header [0x82, 0x7F, 0xFF, 0xFF, 0xFF, 0xFF, 0xFF, 0xFF, 0xFF, 0xFF])) := by decide

theorem test_txReset : seen (fun t => (t.tx.txh, t.tx.txhLen, t.tx.resp)) (exec .txReset written)
    = some (Vector.replicate 10 0, 0, some .ok) := by decide

/-! ### The operations (V1, V2, V3) -/

/-- V1.9: the reserved bits are tested before the opcode. -/
theorem test_hpInitial_order :
    seen (fun t => (t.rx.st, t.rx.rsv, t.rx.opcode, t.rx.closeCode, t.rx.resp))
      (exec .hpInitial (parsing .initial 1 #v[0xC3, 0, 0, 0, 0, 0, 0, 0]))
      = some (.initial, 4, 3, 1002, some (.fault .protocol .rsvNonzero)) := by decide

/-- V1.17: without the mask bit the length field is not looked at. -/
theorem test_hpLength_noMask :
    seen (fun t => (t.rx.st, t.rx.haveBytes, t.rx.masked, t.rx.declaredLength, t.rx.resp))
      (exec .hpLength (parsing .length 1 #v[0x7E, 0, 0, 0, 0, 0, 0, 0]))
      = some (.length, 1, false, 0, some (.fault .protocol .noMask)) := by decide

/-- V1.19. -/
theorem test_hpExt16 :
    seen (fun t => (t.rx.st, t.rx.haveBytes, t.rx.declaredLength))
      (exec .hpExt16 (parsing .extendedLength16 2 #v[1, 0, 0, 0, 0, 0, 0, 0])) = some (.mask, 0, 256) := by decide

/-- V1.24: the largest length. -/
theorem test_hpExt64_largest :
    seen (fun t => (t.rx.st, t.rx.declaredLength))
      (exec .hpExt64 (parsing .extendedLength64 8 #v[0x7F, 0xFF, 0xFF, 0xFF, 0xFF, 0xFF, 0xFF, 0xFF]))
      = some (.mask, 9223372036854775807) := by decide

/-- V1.25. -/
theorem test_hpExt64_topBit :
    seen (fun t => (t.rx.st, t.rx.haveBytes, t.rx.declaredLength, t.rx.rxFault, t.rx.closeCode))
      (exec .hpExt64 (parsing .extendedLength64 8 #v[0x80, 0, 0, 0, 0, 0, 0, 0]))
      = some (.extendedLength64, 8, 9223372036854775808, some .size, 1009) := by decide

/-- V3.1: equal to the ceiling is allowed. -/
theorem test_hpMask_atCeiling :
    seen (fun t => (t.rx.st, t.rx.msgTotal, t.rx.resp)) (exec .hpMask (keyed 10 0 10))
      = some (.payload, 10, some (.headerDone 10)) := by decide

/-- V3.3: the fault keeps `st`, `have` and `msg_total`. -/
theorem test_hpMask_overCeiling :
    seen (fun t => (t.rx.st, t.rx.haveBytes, t.rx.msgTotal, t.rx.closeCode, t.rx.resp)) (exec .hpMask (keyed 10 10 1))
      = some (.mask, 4, 10, 1009, some (.fault .size .ceiling)) := by decide

/-- V2.1. -/
theorem test_umXor_hello :
    seen (fun t => (t.rx.payIdx, t.rx.resp)) (exec (.umXor [0x7F, 0x9F, 0x4D, 0x51, 0x58]) (paying #v[0x37, 0xFA, 0x21, 0x3D] 0 5))
      = some (5, some (.payloadData [0x48, 0x65, 0x6C, 0x6C, 0x6F] 0)) := by decide

/-- V2.3: the first byte uses `key[3]`. -/
theorem test_umXor_lane :
    seen (fun t => (t.rx.payIdx, t.rx.payout)) (exec (.umXor [0x10, 0x20, 0x30, 0x40, 0x50]) (paying #v[1, 2, 3, 4] 3 9))
      = some (8, [0x14, 0x21, 0x32, 0x43, 0x54]) := by decide

/-- An operation the state does not select stops by name (log entry 3). -/
theorem test_hpMask_stops : stopped (exec .hpMask State.reset) = some .operationNotPerformed := by decide

/-! ### The RX commands (V1, V4, P2) -/

/-- V4.9. -/
theorem test_rxReset : seen (fun t => (t.rx.rxFault, t.rx.ccValid, t.rx.closeCode, t.rx.haveBytes)) (exec .rxReset faulted)
    = some (none, false, 0, 0) := by decide

/-- V4.7. -/
theorem test_rxStart_inProgress :
    seen (fun t => (t.rx.st, t.rx.resp)) (exec .rxStart (parsing .length 0 (Vector.replicate 8 0)))
      = some (.length, some (.refused .frameInProgress)) := by decide

/-- P2: RX_NEXT keeps `msg_total`, here 10, and clears the slot. -/
theorem test_rxNext_keeps_total :
    seen (fun t => (t.rx.msgTotal, t.rx.st, t.rx.resp))
      (exec .rxNext { keyed 10 10 0 with rx := { (keyed 10 10 0).rx with st := .payload, haveBytes := 0 } })
      = some (10, .initial, some .ok) := by decide

/-- V1.29: an overfed chunk writes nothing. -/
theorem test_rxFeed_overfeed :
    seen (fun t => (t.rx.st, t.rx.haveBytes, t.rx.rxs, t.rx.resp)) (exec (.rxFeed [0x81, 0x85]) State.reset)
      = some (.initial, 0, [], some (.refused .overfeed)) := by decide

/-- V1.33: an empty chunk is a channel failure. -/
theorem test_rxFeed_empty :
    seen (fun t => t.rx.resp) (exec (.rxFeed []) (parsing .length 0 (Vector.replicate 8 0)))
      = some (some (.fault .protocol .partialHeader)) := by decide

/-- V4.3. -/
theorem test_rxChfail_initial :
    seen (fun t => (t.rx.rxFault, t.rx.ccValid, t.rx.closeCode)) (exec .rxChfail State.reset)
      = some (some .channel, false, 0) := by decide

/-- V4.5: a failure in the middle of a payload. -/
theorem test_rxChfail_payload :
    seen (fun t => (t.rx.st, t.rx.payIdx, t.rx.rxFault, t.rx.ccValid)) (exec .rxChfail (paying #v[1, 2, 3, 4] 2 5))
      = some (.payload, 2, some .channel, false) := by decide

/-- V4.1. -/
theorem test_rxTimeout_noFrame :
    seen (fun t => (t.rx.rxFault, t.rx.resp)) (exec .rxTimeout State.reset) = some (none, some .noFrame) := by decide

/-- V4.2. -/
theorem test_rxTimeout_begun :
    seen (fun t => (t.rx.st, t.rx.closeCode, t.rx.resp)) (exec .rxTimeout (parsing .length 0 (Vector.replicate 8 0)))
      = some (.length, 1002, some (.fault .protocol .inProgressTimeout)) := by decide

/-- V4.11. -/
theorem test_rxReserved :
    seen (fun t => (t.rx.st, t.rx.resp)) (exec (.rxReserved 1) State.reset)
      = some (.initial, some (.refused .badCommand)) := by decide

/-! ### The software at the boundary (V6, S6, P2) -/

/-- V6.1, V6.5, V6.6. -/
theorem test_close_codes :
    (hostClose 1000 TxHalf.reset).2 = .send [0x88, 0x02, 0x03, 0xE8] ∧
    (hostClose 1015 TxHalf.reset).2 = .send [0x88, 0x02, 0x03, 0xF7] ∧
    (hostClose 1012 TxHalf.reset).2 = .invalidArgument .badCloseCode ∧
    (hostClose 999 TxHalf.reset).2 = .invalidArgument .badCloseCode ∧
    (hostClose 1016 TxHalf.reset).2 = .invalidArgument .badCloseCode := by decide

/-- S6. -/
theorem test_close_code_of :
    closeCodeOf [] = 1005 ∧ closeCodeOf [0x03] = 1005 ∧ closeCodeOf [0x03, 0xE8, 0x62, 0x79, 0x65] = 1000 := by decide

/-- P1's wire bytes. -/
theorem test_frame_bytes :
    frameBytes true opText (some #v[0x37, 0xFA, 0x21, 0x3D]) [0x48, 0x65, 0x6C, 0x6C, 0x6F]
      = [0x81, 0x85, 0x37, 0xFA, 0x21, 0x3D, 0x7F, 0x9F, 0x4D, 0x51, 0x58] := by decide

/-- P7's masking stage on the header `81 05`. -/
theorem test_mask_header : maskHeader #v[0x11, 0x22, 0x33, 0x44] [0x81, 0x05] = [0x81, 0x85, 0x11, 0x22, 0x33, 0x44] := by
  decide

/-- P2: "Hel" + "lo". -/
theorem test_reassembly :
    assemble (some ⟨opText, [0x48, 0x65, 0x6C]⟩) opCont true [0x6C, 0x6F]
      = .complete ⟨opText, [0x48, 0x65, 0x6C, 0x6C, 0x6F]⟩ := by decide

/-- R167 on V5.3, and N25: the payload is cut to `len`, and one shorter than `len` has no plan to send. -/
theorem test_write :
    (hostWrite 1 (some [0x48, 0x69, 0x21]) 2 TxHalf.reset).2 = .send [0x81, 0x02, 0x48, 0x69] ∧
    (hostWrite 3 (some []) 0 TxHalf.reset).2 = .invalidArgument .badOpcode ∧
    (hostWrite 1 none 1 TxHalf.reset).2 = .payloadShort := by decide

/-- R172, V4.1: a wait that expires before a frame ends the read, unless `already_ready` leaves that wait out; S8: one that
expires in a begun frame is a protocol failure. -/
theorem test_read_waits :
    hostRead Config.standard 50 false [⟨some 51, .bytes [0x81]⟩] RxHalf.reset
      = .noFrame ⟨(RxHalf.reset.respond .noFrame), none, []⟩ ∧
    (∃ rd, hostRead Config.standard 50 true [⟨some 51, .bytes [0x81]⟩] RxHalf.reset = .inProgress rd ∧
      rd.rx.st = .length) ∧
    (∃ r, hostRead Config.standard 50 true [⟨none, .bytes [0x81]⟩, ⟨some 1001, .failed⟩] RxHalf.reset
      = .failure .protocol r) :=
  ⟨by decide, ⟨_, rfl, rfl⟩, ⟨_, rfl⟩⟩

/-- A read whose RX_START is refused, in the middle of a payload, is stuck and returns no message (log entry 15). -/
theorem test_read_start_refused :
    hostRead Config.standard 50 true [⟨none, .bytes [1, 2, 3]⟩] (paying #v[1, 2, 3, 4] 2 5).rx
      = .stuck (refuse .frameInProgress (paying #v[1, 2, 3, 4] 2 5).rx) := by decide

/-- R223, R190: inputs refused at a complete frame do not hide the RX_NEXT after them; RX_START, RX_RESET and the reset do. -/
theorem test_continues :
    continues [.rxCmd 3 [0x81], .rxB0 0x81, .rxB1 0x85, .rxCmd 4 [], .rxCmd 5 [], .rxCmd 6 [], .rxCmd 7 [], .rxCmd 2 []]
      = true ∧
    continues [.rxCmd 1 [], .rxCmd 2 []] = false ∧ continues [.rxCmd 0 [], .rxCmd 2 []] = false ∧
    continues [.reset, .rxCmd 2 []] = false ∧ continues [.rxCmd 3 [0x81]] = false := by decide

/-- R223: the three ends, and three states that are none: in the middle of a frame, whatever the response; a complete frame
that RX_NEXT continues; a refusal. -/
theorem test_run_ends :
    runEnd { State.reset with rx := { RxHalf.reset with resp := some .noFrame } } = some .noFrame ∧
    runEnd { paying #v[1, 2, 3, 4] 5 5 with rx := { (paying #v[1, 2, 3, 4] 5 5).rx with resp := some (.payloadData [1] 0) } }
      = some .completedFrame ∧
    runEnd { faulted with rx := { faulted.rx with resp := some (.fault .protocol .rsvNonzero) } }
      = some (.failure .protocol) ∧
    runEnd { five with rx := { five.rx with resp := some .noFrame } } = none ∧
    runEnd { paying #v[1, 2, 3, 4] 5 5 with
      rx := { (paying #v[1, 2, 3, 4] 5 5).rx with resp := some (.payloadData [1] 0) }
      stream := [.txCmd 1 1 5, .rxCmd 2 []] } = none ∧
    runEnd { faulted with rx := { faulted.rx with resp := some (.refused .faulted) } } = none := by decide

/-- R170: no progress with bytes left ends the drain; a partial write goes on. -/
theorem test_drain : drain [1, 2, 3] [.wrote 1, .wrote 0] = .failure ∧ drain [1, 2, 3] [.wrote 1, .wrote 2] = .done := by
  decide

/-! ### Witnesses: for each statement with hypotheses, states and operands that meet all of them, one per clause. Where the
statement's clauses differ by a byte of `scratch` or a length, the boundary values are here too. -/

/-- A file of eight bytes with the first given. -/
def first (b : Byte) : Vector Byte 8 := #v[b, 0, 0, 0, 0, 0, 0, 0]

/-- HpInitialDecodesByteZero: each of its three clauses. -/
theorem witness_hpInitial :
    (∀ b : Byte, (parsing .initial 1 (first b)).rx.rxFault = none ∧ (parsing .initial 1 (first b)).rx.st = .initial ∧
      (parsing .initial 1 (first b)).rx.haveBytes = 1) ∧
    (0x91#8).extractLsb' 4 3 ≠ 0 ∧ (0x0B#8).extractLsb' 0 4 ∉ opcodes ∧ (0x8A#8).extractLsb' 0 4 ∈ opcodes :=
  ⟨fun _ => ⟨rfl, rfl, rfl⟩, by decide, by decide, by decide⟩

/-- HpLengthSelectsTheForm: each of its four clauses, 125 the last direct length. -/
theorem witness_hpLength :
    (∀ b : Byte, (parsing .length 1 (first b)).rx.rxFault = none ∧ (parsing .length 1 (first b)).rx.st = .length ∧
      (parsing .length 1 (first b)).rx.haveBytes = 1) ∧
    (0x7F#8).getLsbD 7 = false ∧ (0xFE#8).extractLsb' 0 7 = 126#7 ∧ (0xFF#8).extractLsb' 0 7 = 127#7 ∧
    (0xFD#8).extractLsb' 0 7 = 125#7 :=
  ⟨fun _ => ⟨rfl, rfl, rfl⟩, by decide, by decide, by decide, by decide⟩

/-- HpExt16ReadsBigEndian. -/
theorem witness_hpExt16 : ∃ s : State, s.rx.rxFault = none ∧ s.rx.st = .extendedLength16 ∧ s.rx.haveBytes = 2 :=
  ⟨parsing .extendedLength16 2 (first 1), by decide⟩

/-- HpExt64RejectsTopBit: the largest length and the smallest that faults. -/
theorem witness_hpExt64 :
    (∀ f, (parsing .extendedLength64 8 f).rx.rxFault = none ∧ (parsing .extendedLength64 8 f).rx.st = .extendedLength64 ∧
      (parsing .extendedLength64 8 f).rx.haveBytes = 8) ∧
    seen (fun t => t.rx.rxFault)
      (exec .hpExt64 (parsing .extendedLength64 8 #v[0x7F, 0xFF, 0xFF, 0xFF, 0xFF, 0xFF, 0xFF, 0xFF])) = some none ∧
    seen (fun t => t.rx.rxFault) (exec .hpExt64 (parsing .extendedLength64 8 (first 0x80))) = some (some .size) :=
  ⟨fun _ => ⟨rfl, rfl, rfl⟩, by decide, by decide⟩

/-- HpMaskGuardsTheCeiling: at the ceiling and one above it. -/
theorem witness_hpMask :
    (∀ c t l, (keyed c t l).rx.rxFault = none ∧ (keyed c t l).rx.st = .mask ∧ (keyed c t l).rx.haveBytes = 4) ∧
    seen (fun t => t.rx.rxFault) (exec .hpMask (keyed 10 6 4)) = some none ∧
    seen (fun t => t.rx.rxFault) (exec .hpMask (keyed 10 6 5)) = some (some .size) :=
  ⟨fun _ _ _ => ⟨rfl, rfl, rfl⟩, by decide, by decide⟩

/-- UmXorUnmasksTheChunk and UnmaskingIsAnInvolution; a chunk of all five bytes is the boundary. -/
theorem witness_umXor :
    five.rx.rxFault = none ∧ five.rx.st = .payload ∧ 1 ≤ [0x7F#8, 0x9F, 0x4D, 0x51, 0x58].length ∧
      five.rx.payIdx.toNat + [0x7F#8, 0x9F, 0x4D, 0x51, 0x58].length ≤ five.rx.maxread.toNat ∧
      chunkAllowed five.config [0x7F#8, 0x9F, 0x4D, 0x51, 0x58].length :=
  ⟨by decide, by decide, by decide, by decide, chunk_unbounded _⟩

/-- OperationsStopWhereNotPerformed: right after reset none of the six is performed. -/
theorem witness_operations_stop :
    (¬(State.reset.rx.rxFault = none ∧ State.reset.rx.st = .initial ∧ State.reset.rx.haveBytes = 1)) ∧
    (¬(State.reset.rx.rxFault = none ∧ State.reset.rx.st = .length ∧ State.reset.rx.haveBytes = 1)) ∧
    (¬(State.reset.rx.rxFault = none ∧ State.reset.rx.st = .extendedLength16 ∧ State.reset.rx.haveBytes = 2)) ∧
    (¬(State.reset.rx.rxFault = none ∧ State.reset.rx.st = .extendedLength64 ∧ State.reset.rx.haveBytes = 8)) ∧
    (¬(State.reset.rx.rxFault = none ∧ State.reset.rx.st = .mask ∧ State.reset.rx.haveBytes = 4)) ∧
    ¬(State.reset.rx.rxFault = none ∧ State.reset.rx.st = .payload ∧ 1 ≤ [0x7F#8].length ∧
        State.reset.rx.payIdx.toNat + [0x7F#8].length ≤ State.reset.rx.maxread.toNat ∧
        chunkAllowed State.reset.config [0x7F#8].length) := by
  refine ⟨by decide, by decide, by decide, by decide, by decide, ?_⟩
  rintro ⟨-, h, -⟩
  cases h

/-- RxFeedAccountsHeaderBytes: a chunk that leaves a byte to come, and one that takes the last. -/
theorem witness_rxFeed_header :
    (parsing .mask 1 (first 1)).rx.rxFault = none ∧ (parsing .mask 1 (first 1)).rx.st ≠ .payload ∧
      1 ≤ [2#8, 3].length ∧ (parsing .mask 1 (first 1)).rx.haveBytes.toNat + [2#8, 3].length < needTotal .mask ∧
      (parsing .mask 1 (first 1)).rx.haveBytes.toNat + [2#8, 3, 4].length = needTotal .mask := by decide

/-- RxFeedExaminesInOrder: a state for each of its six clauses; need is 1 in `Length` and pay_rem 5 in `five`. -/
theorem witness_rxFeed_order :
    faulted.rx.rxFault ≠ none ∧
    ((paying #v[0, 0, 0, 0] 5 5).rx.rxFault = none ∧ (paying #v[0, 0, 0, 0] 5 5).rx.st = .payload ∧
      (paying #v[0, 0, 0, 0] 5 5).rx.payIdx = (paying #v[0, 0, 0, 0] 5 5).rx.maxread) ∧
    (State.reset.rx.rxFault = none ∧
      ¬(State.reset.rx.st = .payload ∧ State.reset.rx.payIdx = State.reset.rx.maxread)) ∧
    (needTotal State.reset.rx.st - State.reset.rx.haveBytes.toNat < [0x81#8, 0x85].length) ∧
    (five.rx.rxFault = none ∧ five.rx.st = .payload ∧ five.rx.payIdx ≠ five.rx.maxread ∧
      five.rx.maxread.toNat - five.rx.payIdx.toNat < [1#8, 2, 3, 4, 5, 6].length) := by decide

/-- RxFeedExaminesInOrder: a chunk above PAY_CHUNK_MAX within pay_rem. -/
theorem witness_rxFeed_chunk_max :
    ¬chunkAllowed { Config.standard with payChunkMax := some 1 } [1#8, 2].length ∧
    stopped (exec (.umXor [1, 2]) { five with config := { Config.standard with payChunkMax := some 1 } })
      = some .operationNotPerformed := by
  refine ⟨fun h => ?_, by decide⟩
  have := h 1 rfl
  simp at this

/-- HeaderChunksJoin: the two chunks fill the key. -/
theorem witness_header_chunks :
    (parsing .mask 0 (first 0)).rx.rxFault = none ∧ (parsing .mask 0 (first 0)).rx.st ≠ .payload ∧
      [0x12#8, 0x34, 0x56] ≠ [] ∧ [0x78#8] ≠ [] ∧
      (parsing .mask 0 (first 0)).rx.haveBytes.toNat + [0x12#8, 0x34, 0x56].length + [0x78#8].length ≤ needTotal .mask := by
  decide

/-- PayloadChunksJoin: V2.6. -/
theorem witness_payload_chunks :
    five.rx.rxFault = none ∧ five.rx.st = .payload ∧ [0x7F#8, 0x9F, 0x4D] ≠ [] ∧ [0x51#8, 0x58] ≠ [] ∧
      five.rx.payIdx.toNat + [0x7F#8, 0x9F, 0x4D].length + [0x51#8, 0x58].length ≤ five.rx.maxread.toNat ∧
      chunkAllowed five.config ([0x7F#8, 0x9F, 0x4D].length + [0x51#8, 0x58].length) :=
  ⟨by decide, by decide, by decide, by decide, by decide, chunk_unbounded _⟩

/-- A configuration with PAY_CHUNK_MAX = 3. -/
def capped : Config := { Config.standard with payChunkMax := some 3 }

/-- EveryCuttingOfThePayloadAgrees: V2.6 under a PAY_CHUNK_MAX below the payload's length; the cutting takes all of pay_rem. -/
theorem witness_cutting :
    ({ five with config := capped } : State).rx.rxFault = none ∧ ({ five with config := capped } : State).rx.st = .payload ∧
      allowedCut capped ([[0x7F#8, 0x9F, 0x4D]] ++ [[0x51, 0x58]]) ∧
      five.rx.payIdx.toNat + ([[0x7F#8, 0x9F, 0x4D]] ++ [[0x51, 0x58]]).flatten.length = five.rx.maxread.toNat :=
  ⟨by decide, by decide, by simp [allowedCut, chunkAllowed, capped], by decide⟩

/-- ByteZeroFormsStartTheFrame and ParserAgreesWithTableOnByteZero: the block at a frame boundary. -/
theorem witness_byte_zero :
    State.reset.rx.rxFault = none ∧ State.reset.rx.st = .initial ∧ State.reset.rx.haveBytes = 0 := by decide

/-- ByteOneFormsSelectTheLength and ParserAgreesWithTableOnByteOne; 125 is the last length of LEN7. -/
theorem witness_byte_one :
    (parsing .length 0 (first 0x81)).rx.rxFault = none ∧ (parsing .length 0 (first 0x81)).rx.st = .length ∧
      (parsing .length 0 (first 0x81)).rx.haveBytes = 0 ∧ (125#7).toNat ≤ 125 := by decide

/-- RxStartAndNextClearTheSlot: `Initial`, and a complete frame. -/
theorem witness_rxStart :
    (State.reset.rx.rxFault = none ∧ State.reset.rx.st = .initial) ∧
    ((paying #v[1, 2, 3, 4] 5 5).rx.rxFault = none ∧ (paying #v[1, 2, 3, 4] 5 5).rx.st = .payload ∧
      (paying #v[1, 2, 3, 4] 5 5).rx.payIdx = (paying #v[1, 2, 3, 4] 5 5).rx.maxread) := by decide

/-- RxStartAndNextTurnedAway: a fault; a header in progress; a payload one byte short. -/
theorem witness_rxStart_turned_away :
    faulted.rx.rxFault ≠ none ∧
    ((parsing .length 0 (first 0x81)).rx.rxFault = none ∧ (parsing .length 0 (first 0x81)).rx.st ≠ .initial ∧
      ¬((parsing .length 0 (first 0x81)).rx.st = .payload ∧
        (parsing .length 0 (first 0x81)).rx.payIdx = (parsing .length 0 (first 0x81)).rx.maxread)) ∧
    ((paying #v[1, 2, 3, 4] 4 5).rx.st ≠ .initial ∧
      ¬((paying #v[1, 2, 3, 4] 4 5).rx.st = .payload ∧
        (paying #v[1, 2, 3, 4] 4 5).rx.payIdx = (paying #v[1, 2, 3, 4] 4 5).rx.maxread)) := by decide

/-- CompleteFrameAcceptsOnlyRestarts: UM.XOR answers a next state, and a complete frame. -/
theorem witness_complete_frame :
    (seen (fun t => t.rx.st) (exec (.umXor [0x7F]) five) = some .payload) ∧
    (paying #v[1, 2, 3, 4] 5 5).rx.rxFault = none ∧ (paying #v[1, 2, 3, 4] 5 5).rx.st = .payload ∧
      (paying #v[1, 2, 3, 4] 5 5).rx.payIdx = (paying #v[1, 2, 3, 4] 5 5).rx.maxread := by decide

/-- ZeroLengthFrameIsCompleteAtOnce: V3.4, at the ceiling. -/
theorem witness_zero_length :
    (keyed 10 10 0).rx.rxFault = none ∧ (keyed 10 10 0).rx.st = .mask ∧ (keyed 10 10 0).rx.haveBytes = 4 ∧
      (keyed 10 10 0).rx.declaredLength = 0 ∧
      (keyed 10 10 0).rx.msgTotal.toNat ≤ (keyed 10 10 0).config.maxPayload.toNat := by decide

/-- TxWriteBuildsTheHeader, TxWriteRejectsInvalidOpcode: opcodes on both sides of the map's edges. -/
theorem witness_opcodes :
    0x2#4 ∈ opcodes ∧ 0xA#4 ∈ opcodes ∧ 0x3#4 ∉ opcodes ∧ 0x7#4 ∉ opcodes ∧ 0xB#4 ∉ opcodes := by decide

/-- EmittedShortLengths: the last length of HW.LEN7. -/
theorem witness_short_length : (125#7).toNat ≤ 125 ∧ ¬(126#7).toNat ≤ 125 := by decide

/-- EmittedHeaderIsInjective: two commands from different states with one answer. -/
theorem witness_injective :
    0x1#4 ∈ opcodes ∧
    seen (fun t => t.tx.resp) (exec (.txWrite 1 5) State.reset) = some (some (.header [0x81, 5])) ∧
    seen (fun t => t.tx.resp) (exec (.txWrite 1 5) written) = some (some (.header [0x81, 5])) := by decide

/-- UnmaskedLoopbackFaults: P6. -/
theorem witness_loopback :
    0x1#4 ∈ opcodes ∧ State.reset.rx.rxFault = none ∧ State.reset.rx.st = .initial ∧ State.reset.rx.haveBytes = 0 := by
  decide

/-- StepRunsTheDecodedInstruction: an input for each of its six clauses. -/
theorem witness_step :
    State.reset.stream = [] ∧
    ((waiting [.rxCmd 0b101 []]).stream = .rxCmd 0b101 [] :: [] ∧ decode (.rxCmd 0b101 []) = .ok .rxTimeout) ∧
    (waiting [.reset]).stream = .reset :: [] ∧
    ((waiting [.rxB0 0xC1]).stream = .rxB0 0xC1 :: [] ∧ decode (.rxB0 0xC1) = .error .rsvNonzero) ∧
    ((waiting [.rxB1 0x05]).stream = .rxB1 0x05 :: [] ∧ decode (.rxB1 0x05) = .error .noMask) ∧
    ((waiting [.st 6 []]).stream = .st 6 [] :: [] ∧ decode (.st 6 []) = .error .unusedState ∧
      hostInput (.st 6 []) = false) := by decide

/-- DecodeOfEncode: the last well-formed length and a 64-bit length. -/
theorem witness_encode : (Instr.len7 125).wellFormed = true ∧ (Instr.tLen64 0xFFFFFFFFFFFFFFFF).wellFormed = true := by
  decide

/-- EncodeOfDecodedWireWord and DecodedIsWellFormed: a word of each wire format that decodes. -/
theorem witness_wire_words :
    decode (.rxB0 0x8A) = .ok (.pong true) ∧ decode (.rxB1 0xFD) = .ok (.len7 125) ∧ decode (.txB0 0x8A) = .ok .tPong ∧
    decode (.txB1 [0x7E, 0, 0x7E]) = .ok (.tLen16 126) := by decide

/-- StepKeepsTheInvariant: reset with a byte waiting, and a state in `Payload`; both step to a next state. -/
theorem witness_invariant :
    Inv (waiting [.rxB0 0x81]) ∧ Inv five ∧
    seen (fun t => t.rx.st) (step (waiting [.rxB0 0x81])) = some .length ∧
    seen (fun t => t.rx.st) (step five) = some .payload :=
  ⟨⟨by decide, by decide, by decide⟩, ⟨⟨by decide, by decide⟩, by decide, by decide⟩, by decide, by decide⟩

/-- NeedFitsTheScratchBuffer: seven of the eight bytes of the longest field taken. -/
def nearlyLong : State :=
  { State.reset with rx :=
    { RxHalf.reset with st := .extendedLength64, haveBytes := 7, fin := true, opcode := 2, masked := true } }

theorem witness_need : Inv nearlyLong ∧ nearlyLong.rx.rxFault = none ∧ nearlyLong.rx.st ≠ .payload ∧ need nearlyLong.rx = 1 :=
  ⟨⟨⟨by decide, by decide⟩, by decide, by decide⟩, by decide, by decide, by decide⟩

/-- HostInputsNeverStop. -/
theorem witness_host_inputs :
    ∀ i ∈ (waiting [.reset, .rxB0 0xFF, .rxB1 0, .rxCmd 7 [], .txCmd 1 3 0]).stream, hostInput i = true := by decide

/-- InstructionsTouchOneHalf, RxHalfIgnoresTxHalf, HalvesCommute: an instruction of each half that runs; V4.10. -/
theorem witness_halves :
    isTx (.txWrite 8 2) = true ∧ isTx .rxReset = false ∧
    seen (fun t => t.rx) (exec (.txWrite 8 2) faulted) = some faulted.rx ∧
    seen (fun t => t.tx) (exec .rxReset written) = some written.tx ∧ State.reset.rx = written.rx ∧
    State.reset.config = written.config := by decide

/-- ParserNeverMovesBackward: a step forward, one back by RX_START, and none. -/
theorem witness_parser_moves :
    seen (fun t => t.rx.st) (exec (.len7 5) (parsing .length 0 (first 0x81))) = some .mask ∧
    seen (fun t => t.rx.st) (exec .rxStart (paying #v[1, 2, 3, 4] 5 5)) = some .initial ∧
    seen (fun t => t.rx.st) (exec .rxTimeout State.reset) = some .initial := by decide

/-- FaultEntryWritesTheCloseCode: an instruction that takes each kind of fault. -/
theorem witness_fault_entry :
    State.reset.rx.rxFault = none ∧ (keyed 10 10 1).rx.rxFault = none ∧
    seen (fun t => t.rx.rxFault) (exec (.rxFeed [0xC1]) State.reset) = some (some .protocol) ∧
    seen (fun t => t.rx.rxFault) (exec .hpMask (keyed 10 10 1)) = some (some .size) ∧
    seen (fun t => t.rx.rxFault) (exec .rxChfail State.reset) = some (some .channel) := by decide

/-- FaultIsStickyUntilReset: V4.8. -/
theorem witness_sticky :
    faulted.rx.rxFault = some .protocol ∧ (Instr.rxStart ≠ .rxReset) ∧
    seen (fun t => t.rx.resp) (exec .rxStart faulted) = some (some (.refused .faulted)) := by decide

/-- RefusedCommandChangesNothing: V1.29. -/
theorem witness_refused :
    seen (fun t => t.rx.resp) (exec (.rxFeed [0x81, 0x85]) State.reset) = some (some (.refused .overfeed)) := by decide

/-- NeverReadsAhead: a refused chunk, a header byte, a payload chunk that takes all. -/
theorem witness_never_ahead :
    seen (fun t => t.rx.rxs) (exec (.rxFeed [0x81, 0x85]) State.reset) = some [] ∧
    seen (fun t => t.rx.rxs) (exec (.rxFeed [0x81]) State.reset) = some [0x81] ∧
    seen (fun t => payRem t.rx) (exec (.rxFeed [1, 2, 3, 4, 5]) five) = some 0 := by decide

/-- ResetEqualsBothResets: both commands run from a faulted state. -/
theorem witness_resets :
    seen (fun t => t.rx.resp) (exec .rxReset faulted) = some (some .ok) ∧
    seen (fun t => t.tx.resp) (exec .txReset written) = some (some .ok) := by decide

/-- WholeBufferFormAgrees: five bytes at base 1 of a buffer of seven, in one chunk and cut by PAY_CHUNK_MAX = 3. -/
theorem witness_whole_buffer :
    1 + 5 ≤ [0#8, 0x7F, 0x9F, 0x4D, 0x51, 0x58, 0].length ∧ 1 ≤ 5 ∧ five.rx.rxFault = none ∧ five.rx.st = .payload ∧
      five.rx.payIdx = 0 ∧ 5 ≤ five.rx.maxread.toNat ∧ chunkAllowed five.config 5 ∧
      [[0x7F#8, 0x9F, 0x4D], [0x51, 0x58]].flatten = (([0#8, 0x7F, 0x9F, 0x4D, 0x51, 0x58, 0].drop 1).take 5) ∧
      allowedCut capped [[0x7F#8, 0x9F, 0x4D], [0x51, 0x58]] :=
  ⟨by decide, by decide, by decide, by decide, by decide, by decide, chunk_unbounded _, by decide,
    by simp [allowedCut, chunkAllowed, capped]⟩

/-- MaskedRoundTrip: P7 in one chunk and cut by PAY_CHUNK_MAX = 3, and the empty payload. -/
theorem witness_round_trip :
    0x1#4 ∈ opcodes ∧ [0x48#8, 0x65, 0x6C, 0x6C, 0x6F].length < 2 ^ 63 ∧ State.reset.rx.rxFault = none ∧
      State.reset.rx.st = .initial ∧ State.reset.rx.haveBytes = 0 ∧
      State.reset.rx.msgTotal.toNat + [0x48#8, 0x65, 0x6C, 0x6C, 0x6F].length ≤ State.reset.config.maxPayload.toNat ∧
      chunkAllowed State.reset.config [0x48#8, 0x65, 0x6C, 0x6C, 0x6F].length ∧
      [[0x59#8, 0x47, 0x5F], [0x28, 0x7E]].flatten
        = xorFrom #v[0x11, 0x22, 0x33, 0x44] 0 [0x48#8, 0x65, 0x6C, 0x6C, 0x6F] ∧
      allowedCut capped [[0x59#8, 0x47, 0x5F], [0x28, 0x7E]] ∧
      State.reset.rx.msgTotal.toNat + ([] : List Byte).length ≤ State.reset.config.maxPayload.toNat :=
  ⟨by decide, by decide, by decide, by decide, by decide, by decide, chunk_unbounded _, by decide,
    by simp [allowedCut, chunkAllowed, capped], by decide⟩

/-- WriteSendsHeaderThenPayload: opcodes on both sides, a payload of `len` bytes, and an absent one with `len` 1. -/
theorem witness_write :
    0x8#4 ∈ opcodes ∧ [0x03#8, 0xE8].length < 2 ^ 64 ∧ 0x7#4 ∉ opcodes ∧
      ((none : Option (List Byte)).getD []).length < (1#64).toNat := by decide

/-- CloseCodeReadsTwoBytes: one byte is the longest payload without a code. -/
theorem witness_close_code : [0x03#8].length < 2 := by decide

/-- FragmentsConcatenate: the two opcodes. -/
theorem witness_fragments : (opText = 0x1#4 ∨ opText = 0x2#4) ∧ (opBin = 0x1#4 ∨ opBin = 0x2#4) := by decide

/-- ReadDeliversTheMessage: P1 from `Initial` with the payload in two chunks, the first wait left out. -/
theorem witness_read :
    0x1#4 ∈ opcodes ∧ 0x1#4 ≠ 0x0#4 ∧ [0x48#8, 0x65, 0x6C, 0x6C, 0x6F].length < 2 ^ 63 ∧
      [0x48#8, 0x65, 0x6C, 0x6C, 0x6F].length ≤ capped.maxPayload.toNat ∧ RxHalf.reset.rxFault = none ∧
      RxHalf.reset.st = .initial ∧ 50 ≤ 50 ∧ 50 ≤ capped.inProgressMs ∧ (true = true ∨ (none : Option Nat) = some 50) ∧
      0x81#8 :: [0x85, 0x37, 0xFA, 0x21, 0x3D] = headerBytes true 1 true 5 ++ (#v[0x37#8, 0xFA, 0x21, 0x3D]).toList ∧
      [[0x7F#8, 0x9F, 0x4D], [0x51, 0x58]].flatten
        = xorFrom #v[0x37, 0xFA, 0x21, 0x3D] 0 [0x48#8, 0x65, 0x6C, 0x6C, 0x6F] ∧
      allowedCut capped [[0x7F#8, 0x9F, 0x4D], [0x51, 0x58]] :=
  ⟨by decide, by decide, by decide, by decide, by decide, by decide, by decide, by decide, by decide, by decide, by decide,
    by simp [allowedCut, chunkAllowed, capped]⟩

/-- ReadDeliversTheMessage: the empty payload (V1.28's frame with `fin = 1`), from a block standing after a complete frame. -/
theorem witness_read_empty :
    (paying #v[1, 2, 3, 4] 5 5).rx.rxFault = none ∧ (paying #v[1, 2, 3, 4] 5 5).rx.st = .payload ∧
      (paying #v[1, 2, 3, 4] 5 5).rx.payIdx = (paying #v[1, 2, 3, 4] 5 5).rx.maxread ∧ 0xA#4 ∈ opcodes ∧
      ([] : List Byte).length ≤ Config.standard.maxPayload.toNat ∧ (false = true ∨ some 50 = some 50) ∧
      0x8A#8 :: [0x80, 0xDE, 0xAD, 0xBE, 0xEF] = headerBytes true 0xA true 0 ++ (#v[0xDE#8, 0xAD, 0xBE, 0xEF]).toList ∧
      ([] : List (List Byte)).flatten = xorFrom #v[0xDE, 0xAD, 0xBE, 0xEF] 0 [] ∧ allowedCut Config.standard [] :=
  ⟨by decide, by decide, by decide, by decide, by decide, by decide, by decide, by decide, by simp [allowedCut]⟩

end Sys2Proof.Tests
end

section
/-! The RX header parser (40_rx_header_parser.md): the rows of format ST where the block performs them, the two extension
bytes as a 64-bit length, and the byte accounting of RX_FEED in a header state; then the obligations about them. -/

namespace Sys2Proof.Proofs

open Sys2Proof.Machine Sys2Proof.Stated

/-- A header row of format ST, where it is performed, does what `headerOp` does there. -/
theorem performed_eq_headerOp {q : ParseState} {f : RxHalf → RxHalf} {s : State} (hp : performs q s.rx = true)
    (e : f s.rx = headerOp s.config s.rx) :
    performed (performs q s.rx) f s = .next (s.onRx (headerOp s.config)) := by
  rw [hp, performed_of_ready, State.onRx, State.onRx, e]

/-- Where all bytes of a header state have arrived, the row that `st` selects is performed (R91, R100). -/
theorem exec_operationOf_eq_headerOp {s : State} (chunk : List Byte) (hf : s.rx.rxFault = none)
    (hh : isHeader s.rx.st = true) (hn : s.rx.haveBytes.toNat = needTotal s.rx.st) :
    exec (operationOf s.rx.st chunk) s = .next (s.onRx (headerOp s.config)) := by
  have hp : performs s.rx.st s.rx = true := (performs_iff _ _).mpr ⟨hf, rfl, hn⟩
  cases hs : s.rx.st <;> rw [hs] at hp
  case payload => simp [hs, isHeader] at hh
  case initial => exact performed_eq_headerOp hp (by simp only [headerOp, hs])
  case length => exact performed_eq_headerOp hp (by simp only [headerOp, hs])
  case extendedLength16 => exact performed_eq_headerOp hp (by simp only [headerOp, hs])
  case extendedLength64 => exact performed_eq_headerOp hp (by simp only [headerOp, hs])
  case mask => exact performed_eq_headerOp hp (by simp only [headerOp, hs])

/-- The zero-extended 16-bit length is the exact sum in 64 bits (R95, R104). -/
theorem be16_setWidth (a b : Byte) :
    (be16 a b).setWidth 64 = BitVec.ofNat 64 (a.toNat * 256 + b.toNat) := by
  rw [← be16_toNat, BitVec.ofNat_toNat]

/-- A byte of `scratch` after the chunk is stored: the chunk's byte from `have` upward, else the old one (R91). -/
theorem storeChunk_scratch_getElem (chunk : List Byte) (r : RxHalf) (i : Nat) (hi : i < 8) :
    (storeChunk chunk r).scratch[i] =
      if r.haveBytes.toNat ≤ i ∧ i < r.haveBytes.toNat + chunk.length
      then chunk.getD (i - r.haveBytes.toNat) 0 else r.scratch[i] := by
  simp only [storeChunk_scratch, memWrite_getElem]
  split
  · exact (List.getD_eq_getElem _ _ _).symm
  · rfl

/-- A chunk of 1 to `need` bytes in a header state with no fault goes to the byte accounting (R90, R91). -/
theorem exec_rxFeed_header {s : State} {chunk : List Byte} (hf : s.rx.rxFault = none) (hh : isHeader s.rx.st = true)
    (h1 : 1 ≤ chunk.length) (hn : chunk.length ≤ need s.rx) :
    exec (.rxFeed chunk) s = .next (s.onRx (feedHeader s.config chunk)) := by
  have h0 : chunk ≠ [] := List.ne_nil_of_length_pos h1
  change Host.Outcome.next { s with rx := rxFeed s.config chunk s.rx } = _
  rw [rxFeed_header hf hh h0 hn]
  rfl

/-- Settles O3: HP.EXT16 is performed, and its zero-extended length is the exact sum. -/
theorem hpExt16ReadsBigEndian : Obligations.HpExt16ReadsBigEndian := by
  unfold Obligations.HpExt16ReadsBigEndian
  intro s hf hs hb
  have hp : performs .extendedLength16 s.rx = true := (performs_iff _ _).mpr ⟨hf, hs, by rw [hb]; rfl⟩
  change performed (performs .extendedLength16 s.rx) hpExt16 s = _
  rw [hp, performed_of_ready, ← be16_setWidth]
  rfl

/-- Settles O8: the accounting is `storeChunk`; RX_FEED then answers NeedMore or performs what `st` selects, by
`feedHeader_cases`. -/
theorem rxFeedAccountsHeaderBytes : Obligations.RxFeedAccountsHeaderBytes := by
  unfold Obligations.RxFeedAccountsHeaderBytes
  intro s chunk hf hs h1 hle
  have hh : isHeader s.rx.st = true := eq_true_of_ne_false (mt (isHeader_false_iff _).mp hs)
  have hn : chunk.length ≤ need s.rx := Nat.le_sub_of_add_le' hle
  rw [exec_rxFeed_header hf hh h1 hn]
  refine ⟨(storeChunk chunk s.rx).scratch, (storeChunk chunk s.rx).haveBytes,
    storeChunk_scratch_getElem chunk s.rx, storeChunk_have h1 hn, fun hlt => ?_, fun heq => ?_⟩
  · obtain ⟨-, e⟩ := (feedHeader_cases s.config chunk s.rx).resolve_right fun h => Nat.not_lt.mpr h.1 hlt
    simp only [State.onRx, e]
    rfl
  · obtain ⟨-, e⟩ := (feedHeader_cases s.config chunk s.rx).resolve_left fun h => Nat.ne_of_lt h.1 heq
    refine Eq.trans ?_ (exec_operationOf_eq_headerOp (s := s.onRx (storeChunk chunk)) chunk hf hh heq).symm
    simp only [State.onRx, e]

end Sys2Proof.Proofs
end

section
/-! The RX payload unmasker (41_rx_unmasker.md): the condition of UM.XOR in the numbers of R120, `pay_idx` after it, and what a
complete frame does with each RX command; then the obligations about them. -/

namespace Sys2Proof.Proofs

open Sys2Proof.Machine Sys2Proof.Stated

/-- The test of line 5 of R90 is the bound `PAY_CHUNK_MAX` puts on a chunk. -/
theorem withinChunkMax_iff (c : Config) (n : Nat) : withinChunkMax c n = true ↔ chunkAllowed c n := by
  unfold withinChunkMax chunkAllowed
  cases c.payChunkMax <;> simp

/-- UM.XOR is performed on a chunk of 1 to `pay_rem` bytes within PAY_CHUNK_MAX (R120). -/
theorem unmasks_of_chunk_fits {c : Config} {chunk : List Byte} {r : RxHalf} (hf : r.rxFault = none) (hs : r.st = .payload)
    (h1 : 1 ≤ chunk.length) (hle : r.payIdx.toNat + chunk.length ≤ r.maxread.toNat)
    (hc : chunkAllowed c chunk.length) : unmasks c chunk r = true := by
  have hrem : chunk.length ≤ payRem r := by
    rw [payRem, if_pos hs]
    exact Nat.le_sub_of_add_le' hle
  exact (unmasks_iff c chunk r).mpr ⟨hf, hs, h1, hrem, (withinChunkMax_iff c _).mpr hc⟩

/-- UM.XOR changes the RX half exactly where it is performed. -/
theorem exec_umXor_eq_next {chunk : List Byte} {s t : State} :
    exec (.umXor chunk) s = .next t ↔ unmasks s.config chunk s.rx = true ∧ t = s.onRx (umXor chunk) := performed_eq_next

/-- UM.XOR selects no other operation (R125). -/
@[simp] theorem umXor_st (chunk : List Byte) (r : RxHalf) : (umXor chunk r).st = r.st := rfl

/-- A chunk that ends at or before `maxread` does not wrap `pay_idx`, since `maxread` is a 64-bit number. -/
theorem umXor_payIdx_toNat {chunk : List Byte} {r : RxHalf} (hle : r.payIdx.toNat + chunk.length ≤ r.maxread.toNat) :
    (umXor chunk r).payIdx.toNat = r.payIdx.toNat + chunk.length :=
  Nat.mod_eq_of_lt (Nat.lt_of_le_of_lt hle r.maxread.isLt)

/-- RX_CHFAIL on a complete frame (R154 line 2). -/
theorem rxChfail_frameComplete {r : RxHalf} (hf : r.rxFault = none) (hd : frameDone r = true) :
    rxChfail r = refuse .frameComplete r := by
  simp [rxChfail, hf, hd]

/-- RX_TIMEOUT on a complete frame (R155 line 2). -/
theorem rxTimeout_frameComplete {r : RxHalf} (hf : r.rxFault = none) (hd : frameDone r = true) :
    rxTimeout r = refuse .frameComplete r := by
  simp [rxTimeout, hf, hd]

/-- On a complete frame RX_START and RX_NEXT answer Ok, and bring `st` where their own writing does (R152, R153 line 3). -/
theorem startWith_frameComplete {f : RxHalf → RxHalf} {r : RxHalf} (hf : r.rxFault = none) (hd : frameDone r = true) :
    (startWith f r).st = (f r).st ∧ (startWith f r).resp = some .ok := by
  obtain ⟨h, -⟩ | ⟨-, -, h, -⟩ | ⟨-, -, e⟩ := startWith_cases f r
  · exact absurd hf h
  · exact Bool.noConfusion (hd.symm.trans h)
  · rw [e]
    exact ⟨rfl, rfl⟩

/-- A command that refuses on the RX half writes nothing but its answer (R190). -/
theorem onRx_of_refuse {f : RxHalf → RxHalf} {s : State} {w : RefuseReason} (h : f s.rx = refuse w s.rx) :
    s.onRx f = answerRx (.refused w) s := by
  rw [State.onRx, h]
  rfl

/-- Settles O6: UM.XOR is performed, its output is `xorFrom` lane by lane, and `pay_idx` does not wrap. -/
theorem umXorUnmasksTheChunk : Obligations.UmXorUnmasksTheChunk := by
  unfold Obligations.UmXorUnmasksTheChunk
  intro s chunk hf hs h1 hle hc
  have hidx := umXor_payIdx_toNat hle
  refine ⟨xorFrom s.rx.key s.rx.payIdx.toNat chunk, (umXor chunk s.rx).payIdx, xorFrom_length _ _ _, hidx,
    fun j hj _ => xorFrom_getElem _ _ _ j hj, ?_⟩
  rw [exec_umXor_eq_next.mpr ⟨unmasks_of_chunk_fits hf hs h1 hle hc, rfl⟩, hidx]
  rfl

/-- Settles O23: UM.XOR keeps `st`; on a complete frame each command's refusal or restart is its own line of R90, R151 to
R156. -/
theorem completeFrameAcceptsOnlyRestarts : Obligations.CompleteFrameAcceptsOnlyRestarts := by
  unfold Obligations.CompleteFrameAcceptsOnlyRestarts
  refine ⟨fun s t chunk h => ?_, fun s chunk low hf hs hp => ?_⟩
  · obtain ⟨-, rfl⟩ := exec_umXor_eq_next.mp h
    rw [State.onRx_rx, umXor_st]
  have hd : frameDone s.rx = true := (frameDone_iff _).mpr ⟨hs, hp⟩
  simp only [List.forall_mem_cons, List.not_mem_nil, false_imp_iff, implies_true, and_true]
  refine ⟨⟨?feed, ?chfail, ?timeout, ?reserved⟩, ?start, ?next, ?reset⟩
  case feed => exact ⟨_, congrArg _ (onRx_of_refuse (rxFeed_frameComplete hf hd))⟩
  case chfail => exact ⟨_, congrArg _ (onRx_of_refuse (rxChfail_frameComplete hf hd))⟩
  case timeout => exact ⟨_, congrArg _ (onRx_of_refuse (rxTimeout_frameComplete hf hd))⟩
  case reserved => exact ⟨.badCommand, rfl⟩
  case start => exact ⟨_, rfl, startWith_frameComplete hf hd⟩
  case next => exact ⟨_, rfl, startWith_frameComplete hf hd⟩
  case reset => exact ⟨_, rfl, rfl, rfl⟩

end Sys2Proof.Proofs
end

section
/-! The software at the boundary (43_host_interface.md): a short header as TX_WRITE leaves it in `txh`, the plan of a `write`
that has its whole payload, and the codes of `close`; then the obligation about `close`. -/

namespace Sys2Proof.Proofs

open Sys2Proof.Machine

/-- Byte 0 and then HW.LEN7 leave the two header bytes as the valid part of `txh` (R136, R139). -/
theorem txhOut_hwLen7_hwByte0 (len : BitVec 7) (op : BitVec 4) (t : TxHalf) :
    txhOut (hwLen7 len (hwByte0 op t)) = [mkB0 true op, mkB1 false len] := by
  have hjoin : memWrite (memWrite t.txh 0 [mkB0 true op]) 1 [mkB1 false len]
      = memWrite t.txh 0 [mkB0 true op, mkB1 false len] := memWrite_append [_] [_] t.txh 0
  exact (congrArg (memRead · 0 2) hjoin).trans (memRead_memWrite t.txh [_, _] (by simp))

/-- TX_WRITE of a valid opcode and a length up to 125 gives out a header of two bytes (R135, R136). -/
theorem txhOut_txWrite_short {op : BitVec 4} {len : BitVec 64} (hv : validOpcode op = true) (hl : len.toNat ≤ 125)
    (t : TxHalf) : txhOut (txWrite op len t) = [mkB0 true op, mkB1 false (len.setWidth 7)] := by
  obtain ⟨h, -⟩ | ⟨-, e⟩ := txWrite_cases op len t
  · exact Bool.noConfusion (hv.symm.trans h)
  · rw [e, hwLength, if_pos hl]
    exact txhOut_hwLen7_hwByte0 _ op t

/-- A `write` of a valid opcode and of just `len` payload bytes drains the header and then all of them (R167). -/
theorem hostWrite_whole {op : BitVec 4} {len : BitVec 64} {payload : List Byte} (hv : validOpcode op = true)
    (hl : len.toNat = payload.length) (t : TxHalf) :
    hostWrite op (some payload) len t = (txWrite op len t, .send (txhOut (txWrite op len t) ++ payload)) := by
  have hp : payloadOf (some payload) payload.length = some payload := by
    simpa using payloadOf_append payload []
  rw [hostWrite, if_pos hv, hl, hp]

/-- The two extension bytes are the number's quotient and remainder by 256 (R70). -/
theorem ext16Bytes_eq (x : BitVec 16) :
    ext16Bytes x = [BitVec.ofNat 8 (x.toNat / 256), BitVec.ofNat 8 x.toNat] := by
  simp [ext16Bytes, BitVec.extractLsb', Nat.shiftRight_eq_div_pow]

/-- The codes `close` accepts (R168). -/
theorem sendableCode_iff (code : BitVec 16) :
    sendableCode code = true ↔ (1000 ≤ code.toNat ∧ code.toNat ≤ 1011) ∨ code.toNat = 1015 := by
  simp [sendableCode]

/-- `close` of an accepted code is a `write` of a Close frame whose payload is the code, big-endian (R168). -/
theorem hostClose_of_sendable {code : BitVec 16} (h : sendableCode code = true) (t : TxHalf) :
    hostClose code t = (txWrite opClose 2 t, .send ([0x88, 0x02] ++ ext16Bytes code)) := by
  have hv : validOpcode opClose = true := by decide
  have hout : txhOut (txWrite opClose 2 t) = [0x88, 0x02] := txhOut_txWrite_short hv (by decide) t
  rw [hostClose, if_pos h, hostWrite_whole hv rfl, hout]

/-- `close` of any other code is an invalid argument, and TX_WRITE is not issued (R168). -/
theorem hostClose_of_not_sendable {code : BitVec 16} (h : ¬sendableCode code = true) (t : TxHalf) :
    hostClose code t = (t, .invalidArgument .badCloseCode) := if_neg h

/-- Settles O57: the two outcomes of the code check, with the code's two bytes as numbers. -/
theorem closeSendsOnlySendableCodes : Obligations.CloseSendsOnlySendableCodes := by
  unfold Obligations.CloseSendsOnlySendableCodes
  intro code t
  simp only [← sendableCode_iff]
  split
  case isTrue h =>
    rw [hostClose_of_sendable h, ext16Bytes_eq]
    rfl
  case isFalse h => exact hostClose_of_not_sendable h t

end Sys2Proof.Proofs
end

section
/-! The decoder and the encoder (30_encoding.md): what each wire format decodes to, told by what the answer encodes to; then
the obligations about the two. -/

namespace Sys2Proof.Proofs

open Sys2Proof.Machine

/-- The two extension bytes of the length two bytes make are those bytes (R70). -/
theorem ext16Bytes_be16 (a b : Byte) : ext16Bytes (be16 a b) = [a, b] := by
  simp only [ext16Bytes, List.cons.injEq, and_true]
  constructor <;>
  · apply BitVec.eq_of_toNat_eq
    rw [BitVec.extractLsb'_toNat, be16_toNat, Nat.shiftRight_eq_div_pow]
    omega

/-- The eight extension bytes of the length eight bytes make are those bytes (R70). -/
theorem ext64Bytes_be64 (b0 b1 b2 b3 b4 b5 b6 b7 : Byte) :
    ext64Bytes (be64 #v[b0, b1, b2, b3, b4, b5, b6, b7]) = [b0, b1, b2, b3, b4, b5, b6, b7] := by
  simp only [ext64Bytes, List.cons.injEq, and_true]
  refine ⟨?_, ?_, ?_, ?_, ?_, ?_, ?_, ?_⟩ <;>
  · apply BitVec.eq_of_toNat_eq
    rw [BitVec.extractLsb'_toNat, be64_toNat, Nat.shiftRight_eq_div_pow]
    omega

/-- Byte 0 in its three cases: a reserved bit, an invalid opcode, or the row whose encoding it is (R61, R71 to R78). -/
theorem decodeRxB0_cases (b : Byte) :
    (b0Rsv b ≠ 0 ∧ decodeRxB0 b = .error .rsvNonzero) ∨
    (b0Rsv b = 0 ∧ validOpcode (b0Opcode b) = false ∧ decodeRxB0 b = .error .badOpcode) ∨
    (b0Rsv b = 0 ∧ validOpcode (b0Opcode b) = true ∧ ∃ i, decodeRxB0 b = .ok i ∧ encode i = .rxB0 b ∧ i.wellFormed = true) := by
  by_cases hr : b0Rsv b = 0
  swap
  · exact .inl ⟨hr, if_pos hr⟩
  right
  have hb : ∀ op, b0Opcode b = op → Input.rxB0 (mkB0 (b0Fin b) op) = .rxB0 b := by
    rintro _ rfl
    rw [b0_fields b hr]
  unfold decodeRxB0
  rw [if_neg (not_not.mpr hr)]
  split_ifs with h0 h1 h2 h8 h9 hA
  case neg =>
    refine .inl ⟨hr, ?_, rfl⟩
    rw [← Bool.not_eq_true, validOpcode_iff]
    tauto
  all_goals
    refine .inr ⟨hr, (validOpcode_iff _).mpr (by tauto), _, rfl, hb _ ?_, rfl⟩
    assumption

/-- Byte 1 in its two cases: no mask bit, or the row whose encoding it is (R62, R79). -/
theorem decodeRxB1_cases (b : Byte) :
    (b1Mask b = false ∧ decodeRxB1 b = .error .noMask) ∨
    (b1Mask b = true ∧ ∃ i, decodeRxB1 b = .ok i ∧ encode i = .rxB1 b ∧ i.wellFormed = true) := by
  rcases Bool.eq_false_or_eq_true (b1Mask b) with hm | hm
  swap
  · exact .inl ⟨hm, if_pos hm⟩
  have hb : ∀ l, b1Len7 b = l → mkB1 true l = b := by
    rintro _ rfl
    rw [← hm, b1_fields]
  refine .inr ⟨hm, ?_⟩
  unfold decodeRxB1
  rw [if_neg (by simp [hm])]
  split_ifs with h7 h6
  · exact ⟨_, rfl, congrArg Input.rxB1 (hb _ h7), rfl⟩
  · exact ⟨_, rfl, congrArg Input.rxB1 (hb _ h6), rfl⟩
  · refine ⟨_, rfl, congrArg Input.rxB1 (hb _ rfl), decide_eq_true ?_⟩
    bv_omega

/-- An emitted byte 0 that decodes is the encoding of its row (R139). -/
theorem encode_of_decodeTxB0 {b : Byte} {i : Instr} (h : decodeTxB0 b = .ok i) :
    encode i = .txB0 b ∧ i.wellFormed = true := by
  unfold decodeTxB0 at h
  split_ifs at h with h0 h1 h2 h8 h9 hA <;> (cases h; subst b; exact ⟨rfl, rfl⟩)

/-- An emitted byte 1 with its extension that decodes is the encoding of its row (R68). -/
theorem encode_of_decodeTxB1 {bytes : List Byte} {i : Instr} (h : decodeTxB1 bytes = .ok i) :
    encode i = .txB1 bytes ∧ i.wellFormed = true := by
  unfold decodeTxB1 at h
  split at h
  case h_1 b =>
    split_ifs at h with hm hl
    cases h
    refine ⟨?_, decide_eq_true (by omega)⟩
    rw [encode, ← Bool.eq_false_iff.mpr hm, b1_fields]
  case h_2 b e0 e1 =>
    split_ifs at h with hb
    cases h
    refine ⟨?_, rfl⟩
    rw [encode, hb, ext16Bytes_be16]
  case h_3 b e0 e1 e2 e3 e4 e5 e6 e7 =>
    split_ifs at h with hb
    cases h
    refine ⟨?_, rfl⟩
    rw [encode, hb, ext64Bytes_be64]
  case h_4 => cases h

/-- The code of a reserved RX command has the row's fixed bits and the operand in its low bit (R83). -/
theorem decodeRxCmd_reserved (low : BitVec 1) (chunk : List Byte) :
    decodeRxCmd (0x6#3 ||| low.setWidth 3) chunk = .ok (.rxReserved low) := by
  obtain rfl | rfl := BitVec.eq_zero_or_eq_one low <;> rfl

/-- A 7-bit length row's byte 1 decodes to it on receive (R62, R86). -/
theorem decodeRxB1_mkB1 {len : BitVec 7} (h : len.toNat ≤ 125) : decodeRxB1 (mkB1 true len) = .ok (.len7 len) := by
  have h7 : len ≠ 127 := by rintro rfl; contradiction
  have h6 : len ≠ 126 := by rintro rfl; contradiction
  rw [decodeRxB1, if_neg (by simp), b1Len7_mkB1, if_neg h7, if_neg h6]

/-- A 7-bit length row's emitted byte 1 decodes to it (R68, R86). -/
theorem decodeTxB1_mkB1 {len : BitVec 7} (h : len.toNat ≤ 125) : decodeTxB1 [mkB1 false len] = .ok (.tLen7 len) := by
  have hl : ¬126 ≤ len.toNat := by omega
  simp [decodeTxB1, hl]

/-- Settles O37: by cases on the instruction; only the rows with a length operand need more than evaluation, each by the law
that its fields or slices give the operand back. -/
theorem decodeOfEncode : Obligations.DecodeOfEncode := by
  unfold Obligations.DecodeOfEncode
  intro i hw
  cases i with
  | cont fin => cases fin <;> rfl
  | text fin => cases fin <;> rfl
  | bin fin => cases fin <;> rfl
  | close fin => cases fin <;> rfl
  | ping fin => cases fin <;> rfl
  | pong fin => cases fin <;> rfl
  | len7 len => exact decodeRxB1_mkB1 (of_decide_eq_true hw)
  | tLen7 len => exact decodeTxB1_mkB1 (of_decide_eq_true hw)
  | tLen16 len => exact congrArg (Except.ok ∘ Instr.tLen16) (be16_slices len)
  | tLen64 len => exact congrArg (Except.ok ∘ Instr.tLen64) (be64_slices len)
  | rxReserved low => exact decodeRxCmd_reserved low []
  | _ => rfl

/-- Settles O38: each wire format's answer encodes to the word it was read from. -/
theorem encodeOfDecodedWireWord : Obligations.EncodeOfDecodedWireWord := by
  unfold Obligations.EncodeOfDecodedWireWord
  refine ⟨fun b i h => ?_, fun b i h => ?_, fun b i h => (encode_of_decodeTxB0 h).1,
    fun bytes i h => (encode_of_decodeTxB1 h).1⟩
  · obtain ⟨-, e⟩ | ⟨-, -, e⟩ | ⟨-, -, j, e, hj, -⟩ := decodeRxB0_cases b <;> cases e.symm.trans h
    exact hj
  · obtain ⟨-, e⟩ | ⟨-, j, e, hj, -⟩ := decodeRxB1_cases b <;> cases e.symm.trans h
    exact hj

/-- Settles O39: by cases on the format; the check has something to say in formats RX.B1 and TX.B1 only. -/
theorem decodedIsWellFormed : Obligations.DecodedIsWellFormed := by
  unfold Obligations.DecodedIsWellFormed
  intro x i h
  cases x with
  | reset => cases h
  | rxB0 b =>
    obtain ⟨-, e⟩ | ⟨-, -, e⟩ | ⟨-, -, j, e, -, hj⟩ := decodeRxB0_cases b <;> cases e.symm.trans h
    exact hj
  | rxB1 b =>
    obtain ⟨-, e⟩ | ⟨-, j, e, -, hj⟩ := decodeRxB1_cases b <;> cases e.symm.trans h
    exact hj
  | txB0 b => exact (encode_of_decodeTxB0 h).2
  | txB1 bytes => exact (encode_of_decodeTxB1 h).2
  | st code chunk =>
    simp only [decode, decodeSt] at h
    split at h <;> cases h <;> rfl
  | rxCmd code chunk =>
    simp only [decode, decodeRxCmd] at h
    split at h <;> cases h <;> rfl
  | txCmd code op len =>
    simp only [decode, decodeTxCmd] at h
    split_ifs at h <;> cases h <;> rfl

/-- Settles O36: the fourteen words, evaluated. -/
theorem knownWordsDecode : Obligations.KnownWordsDecode := by
  unfold Obligations.KnownWordsDecode
  decide

end Sys2Proof.Proofs
end

section
/-! A step (70_reset_and_hazards.md R223, 60_exceptions.md R199): what becomes of the oldest waiting input; then the obligation
about fetching. -/

namespace Sys2Proof.Proofs

open Sys2Proof.Machine Sys2Proof.Safety

/-- With no input waiting the block is idle. -/
theorem step_idle {s : State} (hs : s.stream = []) : step s = .next s := by
  simp only [step, fetch, hs]

/-- An input that decodes is executed. -/
theorem step_of_decoded {s : State} {x : Input} {rest : List Input} {i : Instr} (hs : s.stream = x :: rest)
    (hd : decode x = .ok i) : step s = exec i { s with stream := rest } := by
  simp only [step, fetch, hs, hd]

/-- What becomes of any other input depends on its format. -/
theorem step_of_undecoded {s : State} {x : Input} {rest : List Input} {e : Reject} (hs : s.stream = x :: rest)
    (hd : decode x = .error e) : step s = unmatched x { s with stream := rest } := by
  simp only [step, fetch, hs, hd]

/-- An input no host presents, and no row has, stops by name. -/
theorem unmatched_eq_refused {x : Input} (hx : hostInput x = false) (s : State) :
    unmatched x s = .refused .noSuchEncoding := by
  cases x with
  | txB0 b => rfl
  | txB1 bytes => rfl
  | st code chunk => rfl
  | reset => cases hx
  | rxB0 b => cases hx
  | rxB1 b => cases hx
  | rxCmd code chunk => cases hx
  | txCmd code op len => cases hx

/-- Settles O35: a step is idle, executes, or acts by the format of the input no row has. -/
theorem stepRunsTheDecodedInstruction : Obligations.StepRunsTheDecodedInstruction := by
  unfold Obligations.StepRunsTheDecodedInstruction
  intro s
  exact ⟨step_idle, fun x rest i hs hd => step_of_decoded hs hd, fun rest hs => step_of_undecoded hs rfl,
    fun b e rest hs hd => step_of_undecoded hs hd, fun b e rest hs hd => step_of_undecoded hs hd,
    fun x e rest hs hd hx => (step_of_undecoded hs hd).trans (unmatched_eq_refused hx _)⟩

end Sys2Proof.Proofs
end

section
/-! The header operations as one: what a fault or an advance of HP.INITIAL to HP.MASK leaves in the registers
(40_rx_header_parser.md R93 to R98), so that the frames and invariants below need not go through the five operations. -/

namespace Sys2Proof.Proofs

open Sys2Proof.Machine Sys2Proof.Safety

/-- The transitions of `st` that a header operation makes (R100). -/
def advances : List (ParseState × ParseState) :=
  [(.initial, .length), (.length, .mask), (.length, .extendedLength16), (.length, .extendedLength64),
    (.extendedLength16, .mask), (.extendedLength64, .mask), (.mask, .payload)]

/-- `t` is `r` after a fault of kind `k`: what is written, and the registers that are kept (R182, R186). -/
structure Raised (k : FaultKind) (r t : RxHalf) : Prop where
  st : t.st = r.st
  msgTotal : t.msgTotal = r.msgTotal
  maxread : t.maxread = r.maxread
  payIdx : t.payIdx = r.payIdx
  payout : t.payout = r.payout
  rxFault : t.rxFault = some k
  ccValid : t.ccValid = faultCcValid k r.ccValid
  closeCode : t.closeCode = faultCloseCode k r.closeCode
  resp : ∃ w, t.resp = some (.fault k w)

/-- `raise` is such a fault. -/
theorem raised_raise (k : FaultKind) (w : Reason) (r : RxHalf) : Raised k r (raise k w r) :=
  ⟨rfl, rfl, rfl, rfl, rfl, rfl, rfl, rfl, w, rfl⟩

/-- None of these registers is written by storing header bytes. -/
theorem raised_of_storeChunk {k : FaultKind} {chunk : List Byte} {r t : RxHalf} (h : Raised k (storeChunk chunk r) t) :
    Raised k r t := ⟨h.st, h.msgTotal, h.maxread, h.payIdx, h.payout, h.rxFault, h.ccValid, h.closeCode, h.resp⟩

/-- `t` is `r` after a header operation that went on to the next state (R93 to R97). -/
structure HeaderAdvanced (r t : RxHalf) : Prop where
  st : (r.st, t.st) ∈ advances
  haveBytes : t.haveBytes = 0
  rxs : t.rxs = r.rxs
  payout : t.payout = r.payout
  rxFault : t.rxFault = r.rxFault
  ccValid : t.ccValid = r.ccValid
  closeCode : t.closeCode = r.closeCode
  resp : (∃ n, t.resp = some (.needMore n)) ∨ ∃ l, t.resp = some (.headerDone l)

/-- A header operation raises a fault or goes on. -/
theorem headerOp_cases (c : Config) {r : RxHalf} (hh : isHeader r.st = true) :
    (∃ k, Raised k r (headerOp c r) ∧ (headerOp c r).rxs = r.rxs) ∨ HeaderAdvanced r (headerOp c r) := by
  cases hs : r.st with
  | payload => rw [hs] at hh; cases hh
  | initial =>
    rw [show headerOp c r = hpInitial r by simp only [headerOp, hs]]
    obtain ⟨-, e⟩ | ⟨-, -, e⟩ | ⟨-, -, e⟩ := hpInitial_cases r <;> rw [e]
    · exact .inl ⟨_, ⟨rfl, rfl, rfl, rfl, rfl, rfl, rfl, rfl, _, rfl⟩, rfl⟩
    · exact .inl ⟨_, ⟨rfl, rfl, rfl, rfl, rfl, rfl, rfl, rfl, _, rfl⟩, rfl⟩
    · exact .inr ⟨by simp [hs, advances], rfl, rfl, rfl, rfl, rfl, rfl, .inl ⟨_, rfl⟩⟩
  | length =>
    rw [show headerOp c r = hpLength r by simp only [headerOp, hs]]
    obtain ⟨-, e⟩ | ⟨-, -, e⟩ | ⟨-, -, e⟩ | ⟨-, -, -, e⟩ := hpLength_cases r <;> rw [e]
    · exact .inl ⟨_, ⟨rfl, rfl, rfl, rfl, rfl, rfl, rfl, rfl, _, rfl⟩, rfl⟩
    · exact .inr ⟨by simp [hs, advances], rfl, rfl, rfl, rfl, rfl, rfl, .inl ⟨_, rfl⟩⟩
    · exact .inr ⟨by simp [hs, advances], rfl, rfl, rfl, rfl, rfl, rfl, .inl ⟨_, rfl⟩⟩
    · exact .inr ⟨by simp [hs, advances], rfl, rfl, rfl, rfl, rfl, rfl, .inl ⟨_, rfl⟩⟩
  | extendedLength16 =>
    rw [show headerOp c r = hpExt16 r by simp only [headerOp, hs]]
    exact .inr ⟨by simp [hs, advances, hpExt16], rfl, rfl, rfl, rfl, rfl, rfl, .inl ⟨_, rfl⟩⟩
  | extendedLength64 =>
    rw [show headerOp c r = hpExt64 r by simp only [headerOp, hs]]
    obtain ⟨-, e⟩ | ⟨-, e⟩ := hpExt64_cases r <;> rw [e]
    · exact .inl ⟨_, ⟨rfl, rfl, rfl, rfl, rfl, rfl, rfl, rfl, _, rfl⟩, rfl⟩
    · exact .inr ⟨by simp [hs, advances], rfl, rfl, rfl, rfl, rfl, rfl, .inl ⟨_, rfl⟩⟩
  | mask =>
    rw [show headerOp c r = hpMask c r by simp only [headerOp, hs]]
    obtain ⟨-, e⟩ | ⟨-, e⟩ := hpMask_cases c r <;> rw [e]
    · exact .inl ⟨_, ⟨rfl, rfl, rfl, rfl, rfl, rfl, rfl, rfl, _, rfl⟩, rfl⟩
    · exact .inr ⟨by simp [hs, advances], rfl, rfl, rfl, rfl, rfl, rfl, .inr ⟨_, rfl⟩⟩

/-- A header operation takes no byte from RXS and gives none out. -/
theorem headerOp_streams (c : Config) {r : RxHalf} (hh : isHeader r.st = true) :
    (headerOp c r).rxs = r.rxs ∧ (headerOp c r).payout = r.payout := by
  obtain ⟨k, h, hrxs⟩ | h := headerOp_cases c hh
  · exact ⟨hrxs, h.payout⟩
  · exact ⟨h.rxs, h.payout⟩

/-- A header operation never answers Refused. -/
theorem headerOp_resp_ne_refused (c : Config) {r : RxHalf} (hh : isHeader r.st = true) (w : RefuseReason) :
    (headerOp c r).resp ≠ some (.refused w) := by
  obtain ⟨k, h, -⟩ | h := headerOp_cases c hh
  · obtain ⟨v, e⟩ := h.resp
    simp [e]
  · obtain ⟨n, e⟩ | ⟨l, e⟩ := h.resp <;> simp [e]

end Sys2Proof.Proofs
end

section
/-! The invariants between commands (10_state.md section 7): each header operation establishes what the next state needs, each
move of the RX half keeps the invariant, and so does a step; then the obligations about the invariant. -/

namespace Sys2Proof.Proofs

open Sys2Proof.Machine Sys2Proof.Safety

/-- What a header operation relies on: the invariant with no fault recorded, less what it says of `have`. -/
structure Parsing (c : Config) (r : RxHalf) : Prop where
  msgTotal : r.msgTotal.toNat ≤ c.maxPayload.toNat
  length : r.declaredLength.toNat ≤ 2 ^ 63 - 1
  unread : r.st = .initial → r.declaredLength = 0
  parsed : ParsedSoFar r

/-- The invariant gives it, before the chunk is stored. -/
theorem parsing_of_rxInv {c : Config} {r : RxHalf} (h : RxInv c r) (hf : r.rxFault = none) : Parsing c r := by
  obtain ⟨hm, hrest⟩ := h
  obtain ⟨⟨-, -, hfresh, hlen, -⟩, hparsed⟩ := hrest hf
  refine ⟨hm, hlen, fun hs => ?_, hparsed⟩
  obtain ⟨-, -, -, -, -, -, hd, -, -⟩ := hfresh hs
  exact hd

/-- It does not depend on the bytes stored. -/
theorem parsing_storeChunk {c : Config} {r : RxHalf} (h : Parsing c r) (chunk : List Byte) :
    Parsing c (storeChunk chunk r) := ⟨h.msgTotal, h.length, h.unread, h.parsed⟩

/-- With a fault recorded the RX invariant is the bound on `msg_total` alone (R33 item 5). -/
theorem rxInv_of_faulted {c : Config} {r : RxHalf} {k : FaultKind} (hm : r.msgTotal.toNat ≤ c.maxPayload.toNat)
    (hf : r.rxFault = some k) : RxInv c r := by
  refine ⟨hm, fun h => ?_⟩
  rw [hf] at h
  cases h

/-- A clear frame slot in `Initial` is good for every `msg_total` within the ceiling (R33 item 3). -/
theorem rxInv_clearFrame {c : Config} {r : RxHalf} (h : r.msgTotal.toNat ≤ c.maxPayload.toNat) :
    RxInv c (clearFrame r) := by
  refine ⟨h, fun _ => ?_⟩
  simp [BetweenCommands, ParsedSoFar, FreshSlot, isHeader, needTotal]

/-- What a header operation must leave where it goes on to another header state. -/
theorem rxInv_of_header {c : Config} {r : RxHalf} (hm : r.msgTotal.toNat ≤ c.maxPayload.toNat)
    (hh : isHeader r.st = true) (hi : r.st ≠ .initial) (hb : r.haveBytes = 0)
    (hop : r.rsv = 0 ∧ validOpcode r.opcode = true) (hmask : r.st = .length ∨ r.masked = true)
    (hlen : r.declaredLength.toNat ≤ 2 ^ 63 - 1) (hd : r.st = .mask ∨ r.declaredLength = 0) : RxInv c r := by
  refine ⟨hm, fun _ => ?_⟩
  cases hs : r.st <;> simp_all [BetweenCommands, ParsedSoFar, isHeader, needTotal]

/-- HP.INITIAL establishes the RX invariant. -/
theorem hpInitial_rxInv {c : Config} {r : RxHalf} (h : Parsing c r) (hs : r.st = .initial) : RxInv c (hpInitial r) := by
  have hd : r.declaredLength = 0 := h.unread hs
  obtain ⟨-, e⟩ | ⟨-, -, e⟩ | ⟨hr, hv, e⟩ := hpInitial_cases r <;> rw [e]
  · exact rxInv_of_faulted h.msgTotal rfl
  · exact rxInv_of_faulted h.msgTotal rfl
  · exact rxInv_of_header h.msgTotal rfl (by simp) rfl ⟨hr, hv⟩ (.inl rfl) h.length (.inr hd)

/-- HP.LENGTH establishes the RX invariant. -/
theorem hpLength_rxInv {c : Config} {r : RxHalf} (h : Parsing c r) (hs : r.st = .length) : RxInv c (hpLength r) := by
  obtain ⟨hop, hd, -⟩ := h.parsed
  have hop := hop (by simp [hs])
  have hd := hd hs
  obtain ⟨-, e⟩ | ⟨hm, -, e⟩ | ⟨hm, -, e⟩ | ⟨hm, -, -, e⟩ := hpLength_cases r <;> rw [e]
  · exact rxInv_of_faulted h.msgTotal rfl
  · exact rxInv_of_header h.msgTotal rfl (by simp) rfl hop (.inr hm) h.length (.inr hd)
  · exact rxInv_of_header h.msgTotal rfl (by simp) rfl hop (.inr hm) h.length (.inr hd)
  · refine rxInv_of_header h.msgTotal rfl (by simp) rfl hop (.inr hm) ?_ (.inl rfl)
    show ((b1Len7 r.scratch[0]).setWidth 64).toNat ≤ _
    rw [BitVec.toNat_setWidth]
    omega

/-- HP.EXT16 establishes the RX invariant. -/
theorem hpExt16_rxInv {c : Config} {r : RxHalf} (h : Parsing c r) (hs : r.st = .extendedLength16) :
    RxInv c (hpExt16 r) := by
  obtain ⟨hop, -, hm⟩ := h.parsed
  refine rxInv_of_header h.msgTotal rfl (by simp [hpExt16]) rfl (hop (by simp [hs])) (.inr (hm (.inl hs))) ?_ (.inl rfl)
  show ((be16 r.scratch[0] r.scratch[1]).setWidth 64).toNat ≤ _
  rw [BitVec.toNat_setWidth]
  omega

/-- HP.EXT64 establishes the RX invariant. -/
theorem hpExt64_rxInv {c : Config} {r : RxHalf} (h : Parsing c r) (hs : r.st = .extendedLength64) :
    RxInv c (hpExt64 r) := by
  obtain ⟨hop, -, hm⟩ := h.parsed
  obtain ⟨-, e⟩ | ⟨hl, e⟩ := hpExt64_cases r <;> rw [e]
  · exact rxInv_of_faulted h.msgTotal rfl
  · have hlt : (be64 r.scratch).toNat < 2 ^ 63 := BitVec.toNat_lt_of_msb_false hl
    exact rxInv_of_header h.msgTotal rfl (by simp) rfl (hop (by simp [hs])) (.inr (hm (.inr (.inl hs))))
      (Nat.le_pred_of_lt hlt) (.inl rfl)

/-- HP.MASK establishes the RX invariant: LG keeps `msg_total` within the ceiling, and the payload starts whole. -/
theorem hpMask_rxInv {c : Config} {r : RxHalf} (h : Parsing c r) (hs : r.st = .mask) : RxInv c (hpMask c r) := by
  obtain ⟨hop, -, hm⟩ := h.parsed
  obtain ⟨hr, hv⟩ := hop (by simp [hs])
  have hm := hm (.inr (.inr (.inl hs)))
  obtain ⟨-, e⟩ | ⟨hc, e⟩ := hpMask_cases c r <;> rw [e]
  · exact rxInv_of_faulted h.msgTotal rfl
  · rw [← Bool.not_eq_true, overCeiling_iff, Nat.not_lt] at hc
    refine ⟨Nat.le_trans (Nat.mod_le _ _) hc, fun _ => ?_⟩
    simpa [BetweenCommands, ParsedSoFar, isHeader, hr, hv, hm] using h.length

/-- Every header operation establishes the RX invariant. -/
theorem headerOp_rxInv {c : Config} {r : RxHalf} (h : Parsing c r) (hh : isHeader r.st = true) :
    RxInv c (headerOp c r) := by
  cases hs : r.st <;> simp only [headerOp, hs]
  case payload => rw [hs] at hh; cases hh
  case initial => exact hpInitial_rxInv h hs
  case length => exact hpLength_rxInv h hs
  case extendedLength16 => exact hpExt16_rxInv h hs
  case extendedLength64 => exact hpExt64_rxInv h hs
  case mask => exact hpMask_rxInv h hs

/-- Every move of the RX half keeps its invariant. -/
theorem rxInv_of_rxMove {c : Config} {r r' : RxHalf} {i : Instr} (h : RxMove c r i r') (hinv : RxInv c r) : RxInv c r' := by
  have ⟨hm, hrest⟩ := hinv
  cases h with
  | refused w => exact hinv
  | channelFailed hf hd hs => exact rxInv_of_faulted hm rfl
  | begunFailed w hf hd hs => exact rxInv_of_faulted hm rfl
  | idle hf hs => exact hinv
  | headerBytes chunk hf hh h1 hn =>
    obtain ⟨⟨-, hpay, hfresh, hlen, hext⟩, hparsed⟩ := hrest hf
    refine ⟨hm, fun _ => ⟨⟨fun _ => ?_, fun hs => ?_, fun hs => ?_, hlen, hext⟩, hparsed⟩⟩
    · exact Nat.lt_of_le_of_lt (Nat.mod_le _ _) hn
    · rw [show r.st = .payload from hs] at hh
      cases hh
    · rw [show r.st = .initial from hs, needTotal] at hn
      omega
  | headerField chunk hf hh h1 hn => exact headerOp_rxInv (parsing_storeChunk (parsing_of_rxInv hinv hf) chunk) hh
  | operation hf hh hn => exact headerOp_rxInv (parsing_of_rxInv hinv hf) hh
  | payload chunk hu =>
    obtain ⟨hf, hs, h1, hle, -⟩ := (unmasks_iff c chunk r).mp hu
    obtain ⟨⟨hhave, hpay, hfresh, hlen, hext⟩, hparsed⟩ := hrest hf
    obtain ⟨hb, hmax, hidx, hreg⟩ := hpay hs
    rw [payRem, if_pos hs] at hle
    refine ⟨hm, fun _ => ⟨⟨hhave, fun _ => ⟨hb, hmax, ?_, hreg⟩, fun h => ?_, hlen, hext⟩, hparsed⟩⟩
    · rw [umXor_payIdx_toNat (by omega)]
      show _ ≤ r.maxread.toNat
      clear hinv
      omega
    · rw [umXor_st, hs] at h
      cases h
  | reset => exact rxInv_clearFrame (r := clearRx r) (Nat.zero_le _)
  | start hf hs => exact rxInv_clearFrame (r := clearTotal r) (Nat.zero_le _)
  | next hf hs => exact rxInv_clearFrame hm

/-- Raising a fault where none is recorded keeps the close code in agreement with it (R182). -/
theorem closeCodeInv_of_raised {r r' : RxHalf} {k : FaultKind} (h : CloseCodeInv r) (hf : r.rxFault = none)
    (hk : Raised k r r') : CloseCodeInv r' := by
  obtain ⟨-, -, hnone⟩ := h
  obtain ⟨h1, h2⟩ := hnone (.inl hf)
  cases k <;> simp [CloseCodeInv, hk.rxFault, hk.ccValid, hk.closeCode, faultCcValid, faultCloseCode, h1, h2]

/-- Where fault and close code are as they were, they still agree. -/
theorem closeCodeInv_of_eq {r r' : RxHalf} (h : CloseCodeInv r) (hf : r'.rxFault = r.rxFault)
    (hv : r'.ccValid = r.ccValid) (hc : r'.closeCode = r.closeCode) : CloseCodeInv r' := by
  rw [CloseCodeInv, hf, hv, hc]
  exact h

/-- A header operation keeps the close code in agreement with the fault. -/
theorem headerOp_closeCodeInv (c : Config) {r : RxHalf} (h : CloseCodeInv r) (hf : r.rxFault = none)
    (hh : isHeader r.st = true) : CloseCodeInv (headerOp c r) := by
  obtain ⟨k, hk, -⟩ | ha := headerOp_cases c hh
  · exact closeCodeInv_of_raised h hf hk
  · exact closeCodeInv_of_eq h ha.rxFault ha.ccValid ha.closeCode

/-- Every move of the RX half keeps the close code in agreement with the fault. -/
theorem closeCodeInv_of_rxMove {c : Config} {r r' : RxHalf} {i : Instr} (h : RxMove c r i r') (hcc : CloseCodeInv r) :
    CloseCodeInv r' := by
  cases h with
  | refused w => exact hcc
  | channelFailed hf hd hs => exact closeCodeInv_of_raised hcc hf (raised_raise _ _ _)
  | begunFailed w hf hd hs => exact closeCodeInv_of_raised hcc hf (raised_raise _ _ _)
  | idle hf hs => exact hcc
  | headerBytes chunk hf hh h1 hn => exact hcc
  | headerField chunk hf hh h1 hn => exact headerOp_closeCodeInv c (r := storeChunk chunk r) hcc hf hh
  | operation hf hh hn => exact headerOp_closeCodeInv c hcc hf hh
  | payload chunk hu => exact hcc
  | reset => simp [CloseCodeInv]
  | start hf hs => exact hcc
  | next hf hs => exact hcc

/-- Every instruction keeps the invariant of the block. -/
theorem exec_inv {i : Instr} {s t : State} (h : exec i s = .next t) (hinv : Inv s) : Inv t := by
  obtain ⟨hrx, hcc, htx⟩ := hinv
  cases hi : isTx i
  · obtain ⟨e, hmove⟩ := exec_rxMove hi h
    rw [e]
    exact ⟨rxInv_of_rxMove hmove hrx, closeCodeInv_of_rxMove hmove hcc, htx⟩
  · rw [exec_txMove s hi] at h
    cases h
    refine ⟨hrx, hcc, ?_⟩
    obtain e | e := txMove_txhLen i s.tx
    · rwa [TxInv, State.onTx_tx, e]
    · exact e

/-- The reset input leaves a state with the invariant, whatever it finds (R211). -/
theorem hardReset_inv (s : State) : Inv (hardReset s) :=
  ⟨rxInv_clearFrame (r := clearRx s.rx) (Nat.zero_le _), by simp [CloseCodeInv], .inl rfl⟩

/-- An input that is no row keeps the invariant: it is the reset, or a byte fed like any other. -/
theorem unmatched_inv {x : Input} {s t : State} (h : unmatched x s = .next t) (hinv : Inv s) : Inv t := by
  cases x with
  | reset => cases h; exact hardReset_inv s
  | rxB0 b => exact exec_inv (i := .rxFeed [b]) h hinv
  | rxB1 b => exact exec_inv (i := .rxFeed [b]) h hinv
  | txB0 b => cases h
  | txB1 bytes => cases h
  | st code chunk => cases h
  | rxCmd code chunk => cases h
  | txCmd code op len => cases h

/-- Settles O41: the waiting inputs are no part of the invariant, and what the oldest one does keeps it. -/
theorem stepKeepsTheInvariant : Obligations.StepKeepsTheInvariant := by
  unfold Obligations.StepKeepsTheInvariant
  intro s t hinv h
  cases hs : s.stream with
  | nil =>
    rw [step_idle hs] at h
    cases h
    exact hinv
  | cons x rest =>
    have hinv' : Inv { s with stream := rest } := hinv
    cases hd : decode x with
    | ok i => exact exec_inv ((step_of_decoded hs hd).symm.trans h) hinv'
    | error e => exact unmatched_inv ((step_of_undecoded hs hd).symm.trans h) hinv'

/-- Settles O40: reset is a clear frame slot with no fault, no close code and no emitted header. -/
theorem invariantAtReset : Obligations.InvariantAtReset := by
  unfold Obligations.InvariantAtReset
  intro c
  exact hardReset_inv { State.reset with config := c }

/-- Settles O42: `have` is below `need_total`, which is at most the size of `scratch`. -/
theorem needFitsTheScratchBuffer : Obligations.NeedFitsTheScratchBuffer := by
  unfold Obligations.NeedFitsTheScratchBuffer
  intro s hinv hf hs
  obtain ⟨⟨-, hrest⟩, -, -⟩ := hinv
  obtain ⟨⟨hhave, -⟩, -⟩ := hrest hf
  have hlt := hhave (eq_true_of_ne_false (mt (isHeader_false_iff _).mp hs))
  have hle := needTotal_le s.rx.st
  rw [need]
  omega

end Sys2Proof.Proofs
end

section
/-! The five rows of format ST that parse a header, and UM.XOR, presented by themselves (40_rx_header_parser.md section 2,
R100): where each is performed and where it stops; then the obligations about HP.INITIAL, HP.LENGTH, HP.EXT64, HP.MASK. -/

namespace Sys2Proof.Proofs

open Sys2Proof.Machine Sys2Proof.Stated

/-- The obligations' list of opcodes is the block's test (R77). -/
theorem mem_opcodes_iff (op : BitVec 4) : op ∈ opcodes ↔ validOpcode op = true := by
  revert op; decide

/-- When a header operation is performed, with the byte count as the register holds it. -/
theorem performs_iff_haveBytes {q : ParseState} {n : BitVec 4} (hn : n.toNat = needTotal q) (r : RxHalf) :
    performs q r = true ↔ r.rxFault = none ∧ r.st = q ∧ r.haveBytes = n := by
  rw [performs_iff, ← hn, BitVec.toNat_inj]

/-- A header row where `st` selects it, its bytes have arrived and no fault is recorded. -/
theorem performed_eq_next_of {q : ParseState} {n : BitVec 4} {f : RxHalf → RxHalf} {s : State}
    (hn : n.toNat = needTotal q) (hf : s.rx.rxFault = none) (hs : s.rx.st = q) (hb : s.rx.haveBytes = n) :
    performed (performs q s.rx) f s = .next { s with rx := f s.rx } := by
  rw [(performs_iff_haveBytes hn s.rx).mpr ⟨hf, hs, hb⟩, performed_of_ready]
  rfl

/-- A header row anywhere else (R100). -/
theorem performed_eq_refused_of {q : ParseState} {n : BitVec 4} {f : RxHalf → RxHalf} {s : State}
    (hn : n.toNat = needTotal q) (h : ¬(s.rx.rxFault = none ∧ s.rx.st = q ∧ s.rx.haveBytes = n)) :
    performed (performs q s.rx) f s = .refused .operationNotPerformed := by
  rw [← performs_iff_haveBytes hn, Bool.not_eq_true] at h
  rw [h, performed_of_not]

/-- When UM.XOR is performed, in the numbers of R120. -/
theorem unmasks_iff_chunk_fits (c : Config) (chunk : List Byte) (r : RxHalf) :
    unmasks c chunk r = true ↔ r.rxFault = none ∧ r.st = .payload ∧ 1 ≤ chunk.length ∧
      r.payIdx.toNat + chunk.length ≤ r.maxread.toNat ∧ chunkAllowed c chunk.length := by
  refine ⟨fun h => ?_, fun ⟨hf, hs, h1, hle, hc⟩ => unmasks_of_chunk_fits hf hs h1 hle hc⟩
  obtain ⟨hf, hs, h1, hle, hc⟩ := (unmasks_iff c chunk r).mp h
  rw [payRem, if_pos hs] at hle
  exact ⟨hf, hs, h1, by omega, (withinChunkMax_iff c _).mp hc⟩

/-- The big-endian number of eight bytes, byte by byte (R96, R104). -/
theorem be64_toNat_getElem (f : Vector Byte 8) :
    (be64 f).toNat = f[0].toNat * 2 ^ 56 + f[1].toNat * 2 ^ 48 + f[2].toNat * 2 ^ 40 + f[3].toNat * 2 ^ 32
      + f[4].toNat * 2 ^ 24 + f[5].toNat * 2 ^ 16 + f[6].toNat * 2 ^ 8 + f[7].toNat := by
  have hf : f = #v[f[0], f[1], f[2], f[3], f[4], f[5], f[6], f[7]] := by
    ext i hi
    interval_cases i <;> rfl
  exact (congrArg (fun g => (be64 g).toNat) hf).trans (be64_toNat _ _ _ _ _ _ _ _)

/-- HP.EXT64's test is that of 2^63 (R67, R96). -/
theorem be64_getLsbD_63 (f : Vector Byte 8) : (be64 f).getLsbD 63 = decide (2 ^ 63 ≤ (be64 f).toNat) :=
  BitVec.msb_eq_decide (be64 f)

/-- RX_FEED of a complete frame writes nothing but its refusal (R90 line 2). -/
theorem exec_rxFeed_frameComplete {s : State} (chunk : List Byte) (hf : s.rx.rxFault = none)
    (hd : frameDone s.rx = true) : exec (.rxFeed chunk) s = .next (answerRx (.refused .frameComplete) s) :=
  congrArg Host.Outcome.next (onRx_of_refuse (rxFeed_frameComplete hf hd))

/-- Settles O1: the three outcomes of HP.INITIAL in the order of its tests. -/
theorem hpInitialDecodesByteZero : Obligations.HpInitialDecodesByteZero := by
  unfold Obligations.HpInitialDecodesByteZero
  intro s hf hs hb b w
  refine (performed_eq_next_of (f := hpInitial) rfl hf hs hb).trans ?_
  congr 2
  simp only [mem_opcodes_iff, Bool.not_eq_true]
  obtain ⟨hr, e⟩ | ⟨hr, hv, e⟩ | ⟨hr, hv, e⟩ := hpInitial_cases s.rx <;> rw [e]
  · exact (if_pos hr).symm
  · exact ((if_neg (not_not.mpr hr)).trans (if_pos hv)).symm
  · exact ((if_neg (not_not.mpr hr)).trans (if_neg (ne_false_of_eq_true hv))).symm

/-- Settles O2: HP.LENGTH is performed, and its tests stand in R94's order; the direct length is zero-extended. -/
theorem hpLengthSelectsTheForm : Obligations.HpLengthSelectsTheForm := by
  unfold Obligations.HpLengthSelectsTheForm
  intro s hf hs hb b w l
  simp only [BitVec.ofNat_toNat]
  exact performed_eq_next_of (f := hpLength) rfl hf hs hb

/-- Settles O4: the register holds the exact sum, and its top bit is the test of 2^63. -/
theorem hpExt64RejectsTopBit : Obligations.HpExt64RejectsTopBit := by
  unfold Obligations.HpExt64RejectsTopBit
  intro s hf hs hb
  refine (performed_eq_next_of (f := hpExt64) rfl hf hs hb).trans ?_
  simp only [← be64_toNat_getElem, BitVec.ofNat_toNat, BitVec.setWidth_eq]
  congr 2
  obtain ⟨hl, e⟩ | ⟨hl, e⟩ := hpExt64_cases s.rx <;> rw [e]
  · exact (if_pos (by rwa [be64_getLsbD_63, decide_eq_true_eq] at hl)).symm
  · exact (if_neg (by rwa [be64_getLsbD_63, decide_eq_false_iff_not] at hl)).symm

/-- Settles O5: the two outcomes of HP.MASK, LG's test on the exact sum. -/
theorem hpMaskGuardsTheCeiling : Obligations.HpMaskGuardsTheCeiling := by
  unfold Obligations.HpMaskGuardsTheCeiling
  intro s hf hs hb t w
  refine (performed_eq_next_of (f := hpMask s.config) rfl hf hs hb).trans ?_
  congr 2
  obtain ⟨hc, e⟩ | ⟨hc, e⟩ := hpMask_cases s.config s.rx <;> rw [e]
  · exact (if_pos ((overCeiling_iff _ _).mp hc)).symm
  · exact (if_neg (mt (overCeiling_iff _ _).mpr (ne_true_of_eq_false hc))).symm

/-- Settles O7: the complement of each row's condition. -/
theorem operationsStopWhereNotPerformed : Obligations.OperationsStopWhereNotPerformed := by
  unfold Obligations.OperationsStopWhereNotPerformed
  intro s chunk
  refine ⟨performed_eq_refused_of rfl, performed_eq_refused_of rfl, performed_eq_refused_of rfl,
    performed_eq_refused_of rfl, performed_eq_refused_of rfl, fun h => ?_⟩
  rw [← unmasks_iff_chunk_fits, Bool.not_eq_true] at h
  show performed (unmasks s.config chunk s.rx) (umXor chunk) s = _
  rw [h, performed_of_not]

/-- Settles O24: length 0 keeps the sum, which LG lets through, and leaves `pay_idx` = `maxread`. -/
theorem zeroLengthFrameIsCompleteAtOnce : Obligations.ZeroLengthFrameIsCompleteAtOnce := by
  unfold Obligations.ZeroLengthFrameIsCompleteAtOnce
  intro s chunk hf hs hb hd hm
  obtain ⟨hc, -⟩ | ⟨-, e⟩ := hpMask_cases s.config s.rx
  · rw [overCeiling_iff, hd] at hc
    exact absurd hc (Nat.not_lt.mpr hm)
  rw [hd] at e
  refine ⟨_, performed_eq_next_of (f := hpMask s.config) rfl hf hs hb, ?_⟩
  rw [e]
  refine ⟨rfl, rfl, by simp, rfl, exec_rxFeed_frameComplete chunk hf rfl⟩

end Sys2Proof.Proofs
end

section
/-! The commands of the RX half (43_host_interface.md section 1, 40_rx_header_parser.md section 1): each line of RX_START,
RX_NEXT, RX_CHFAIL and RX_TIMEOUT as an equation; then the obligations about the commands and about RX_FEED's order. -/

namespace Sys2Proof.Proofs

open Sys2Proof.Machine Sys2Proof.Stated

/-! ### RX_START and RX_NEXT -/

/-- Line 1 of R152. -/
theorem startWith_faulted {f : RxHalf → RxHalf} {r : RxHalf} (hf : r.rxFault ≠ none) :
    startWith f r = refuse .faulted r := if_pos hf

/-- Line 2 of R152. -/
theorem startWith_inProgress {f : RxHalf → RxHalf} {r : RxHalf} (hf : r.rxFault = none) (hs : r.st ≠ .initial)
    (hd : frameDone r = false) : startWith f r = refuse .frameInProgress r :=
  (if_neg (not_not.mpr hf)).trans (if_pos ⟨hs, hd⟩)

/-- Line 3 of R152. -/
theorem startWith_accepted {f : RxHalf → RxHalf} {r : RxHalf} (hf : r.rxFault = none)
    (hs : r.st = .initial ∨ frameDone r = true) : startWith f r = (f r).respond .ok := by
  obtain ⟨h, -⟩ | ⟨-, hi, hd, -⟩ | ⟨-, -, e⟩ := startWith_cases f r
  · exact absurd hf h
  · rw [hd] at hs
    exact absurd hs (by simp [hi])
  · exact e

/-! ### RX_CHFAIL and RX_TIMEOUT -/

/-- Line 1 of R154. -/
theorem rxChfail_faulted {r : RxHalf} (hf : r.rxFault ≠ none) : rxChfail r = refuse .faulted r := if_pos hf

/-- R154 between frames and in a payload. -/
theorem rxChfail_eq_channel {r : RxHalf} (hf : r.rxFault = none) (hd : ¬frameDone r = true)
    (hs : r.st = .initial ∨ r.st = .payload) : rxChfail r = raise .channel .readFailed r := by
  obtain hs | hs := hs <;> simp [rxChfail, hf, hd, hs]

/-- R154 while a header is partly parsed. -/
theorem rxChfail_eq_protocol {r : RxHalf} (hf : r.rxFault = none) (hs : ¬(r.st = .initial ∨ r.st = .payload)) :
    rxChfail r = raise .protocol .partialHeader r := by
  have hd : frameDone r = false := by
    rw [← Bool.not_eq_true, frameDone_iff]
    exact fun h => hs (.inr h.1)
  cases h : r.st <;> simp_all [rxChfail]

/-- Line 1 of R155. -/
theorem rxTimeout_faulted {r : RxHalf} (hf : r.rxFault ≠ none) : rxTimeout r = refuse .faulted r := if_pos hf

/-- R155 before a frame has begun. -/
theorem rxTimeout_idle {r : RxHalf} (hf : r.rxFault = none) (hd : ¬frameDone r = true) (hs : r.st = .initial) :
    rxTimeout r = r.respond .noFrame := (if_neg (not_not.mpr hf)).trans ((if_neg hd).trans (if_pos hs))

/-- R155 once a frame has begun. -/
theorem rxTimeout_begun {r : RxHalf} (hf : r.rxFault = none) (hd : ¬frameDone r = true) (hs : r.st ≠ .initial) :
    rxTimeout r = raise .protocol .inProgressTimeout r :=
  (if_neg (not_not.mpr hf)).trans ((if_neg hd).trans (if_neg hs))

/-! ### The obligations -/

/-- Settles O17: RX_RESET has one line. -/
theorem rxResetClearsTheHalf : Obligations.RxResetClearsTheHalf := by
  unfold Obligations.RxResetClearsTheHalf
  exact fun s => rfl

/-- Settles O18: both commands are accepted, and clear what they clear. -/
theorem rxStartAndNextClearTheSlot : Obligations.RxStartAndNextClearTheSlot := by
  unfold Obligations.RxStartAndNextClearTheSlot
  intro s hf hs w
  rw [← frameDone_iff] at hs
  have accepted : ∀ f, s.onRx (startWith f) = { s with rx := (f s.rx).respond .ok } := fun f => by
    rw [State.onRx, startWith_accepted hf hs]
  exact ⟨congrArg Host.Outcome.next (accepted _), congrArg Host.Outcome.next (accepted _)⟩

/-- Settles O19: the first two lines of R152, which R153 shares. -/
theorem rxStartAndNextTurnedAway : Obligations.RxStartAndNextTurnedAway := by
  unfold Obligations.RxStartAndNextTurnedAway
  intro s
  refine ⟨fun hf => ?_, fun hf hs hd => ?_⟩
  · exact ⟨congrArg Host.Outcome.next (onRx_of_refuse (startWith_faulted hf)),
      congrArg Host.Outcome.next (onRx_of_refuse (startWith_faulted hf))⟩
  · rw [← frameDone_iff, Bool.not_eq_true] at hd
    exact ⟨congrArg Host.Outcome.next (onRx_of_refuse (startWith_inProgress hf hs hd)),
      congrArg Host.Outcome.next (onRx_of_refuse (startWith_inProgress hf hs hd))⟩

/-- Settles O20: the lines of R154, each where none before it applies. -/
theorem rxChfailFaultsByState : Obligations.RxChfailFaultsByState := by
  unfold Obligations.RxChfailFaultsByState
  intro s
  refine congrArg Host.Outcome.next (a₁ := s.onRx rxChfail) ?_
  simp only [← frameDone_iff]
  split_ifs with hf hd hs
  · exact onRx_of_refuse (rxChfail_faulted hf)
  · exact onRx_of_refuse (rxChfail_frameComplete (not_not.mp hf) hd)
  · rw [State.onRx, rxChfail_eq_channel (not_not.mp hf) hd hs]
    rfl
  · rw [State.onRx, rxChfail_eq_protocol (not_not.mp hf) hs]
    rfl

/-- Settles O21: the lines of R155, each where none before it applies. -/
theorem rxTimeoutFaultsOnceBegun : Obligations.RxTimeoutFaultsOnceBegun := by
  unfold Obligations.RxTimeoutFaultsOnceBegun
  intro s
  refine congrArg Host.Outcome.next (a₁ := s.onRx rxTimeout) ?_
  simp only [← frameDone_iff]
  split_ifs with hf hd hs
  · exact onRx_of_refuse (rxTimeout_faulted hf)
  · exact onRx_of_refuse (rxTimeout_frameComplete (not_not.mp hf) hd)
  · rw [State.onRx, rxTimeout_idle (not_not.mp hf) hd hs]
    rfl
  · rw [State.onRx, rxTimeout_begun (not_not.mp hf) hd hs]
    rfl

/-- Settles O22: the reserved codes have one line. -/
theorem reservedCodesAnswerBadCommand : Obligations.ReservedCodesAnswerBadCommand := by
  unfold Obligations.ReservedCodesAnswerBadCommand
  exact fun s low => rfl

/-- RX_FEED in the block is RX_FEED of its RX half. -/
theorem exec_rxFeed (chunk : List Byte) (s : State) :
    exec (.rxFeed chunk) s = .next { s with rx := rxFeed s.config chunk s.rx } := rfl

/-- So an equation about the RX half is one about the block. -/
theorem exec_rxFeed_of_eq {chunk : List Byte} {s : State} {r : RxHalf} (h : rxFeed s.config chunk s.rx = r) :
    exec (.rxFeed chunk) s = .next { s with rx := r } := by
  rw [exec_rxFeed, h]

/-- Settles O9: the lines of R90, each where none before it applies. -/
theorem rxFeedExaminesInOrder : Obligations.RxFeedExaminesInOrder := by
  unfold Obligations.RxFeedExaminesInOrder
  intro s chunk
  refine ⟨fun hf => ?faulted, fun hf hs hp => ?complete, fun hf hd h0 => ?empty, fun hf hs h0 hn => ?header,
    fun hf hs hp h0 hn => ?payload, fun hf hs h1 hle hc => ?unmask⟩
  case faulted => exact congrArg Host.Outcome.next (onRx_of_refuse (rxFeed_faulted hf))
  case complete => exact exec_rxFeed_frameComplete chunk hf ((frameDone_iff _).mpr ⟨hs, hp⟩)
  case empty =>
    rw [← frameDone_iff, Bool.not_eq_true] at hd
    rw [h0, exec_rxFeed, rxFeed_empty hf hd]
    rfl
  case header =>
    have hh : isHeader s.rx.st = true := eq_true_of_ne_false (mt (isHeader_false_iff _).mp hs)
    exact congrArg Host.Outcome.next (onRx_of_refuse (rxFeed_overfeed_header hf hh hn))
  case payload =>
    have hd : frameDone s.rx = false := by
      rw [← Bool.not_eq_true, frameDone_iff]
      exact fun h => hp h.2
    rw [← withinChunkMax_iff, Bool.not_eq_true] at hn
    have hn : payRem s.rx < chunk.length ∨ withinChunkMax s.config chunk.length = false := by
      rwa [payRem, if_pos hs]
    exact congrArg Host.Outcome.next (onRx_of_refuse (rxFeed_overfeed_payload hf hd hs h0 hn))
  case unmask =>
    have hu := unmasks_of_chunk_fits hf hs h1 hle hc
    exact (exec_rxFeed_of_eq (rxFeed_payload hu)).trans (exec_umXor_eq_next.mpr ⟨hu, rfl⟩).symm

end Sys2Proof.Proofs
end

section
/-! Chunking independence (40_rx_header_parser.md section 3, 41_rx_unmasker.md section 2): what RX_FEED makes of a chunk of a
header field and of a chunk of a payload, that two chunks in a row are their join, and that a run of chunks is their join too;
then the obligations about it. -/

namespace Sys2Proof.Proofs

open Sys2Proof.Machine Sys2Proof.Stated

/-! ### Header fields -/

/-- A chunk that leaves the field incomplete is stored, and the rest asked for (R91). -/
theorem rxFeed_incomplete {c : Config} {chunk : List Byte} {r : RxHalf} (hf : r.rxFault = none)
    (hh : isHeader r.st = true) (h0 : chunk ≠ []) (hlt : r.haveBytes.toNat + chunk.length < needTotal r.st) :
    rxFeed c chunk r = (storeChunk chunk r).respond (.needMore (needTotal r.st - (r.haveBytes.toNat + chunk.length))) := by
  have hn : chunk.length ≤ need r := by rw [need]; omega
  have hv := storeChunk_have (List.length_pos_of_ne_nil h0) hn
  rw [rxFeed_header hf hh h0 hn]
  obtain ⟨-, e⟩ | ⟨h, -⟩ := feedHeader_cases c chunk r
  · rw [e, need, hv, storeChunk_st]
  · omega

/-- A chunk that completes the field is stored, and the operation of `st` performed (R91). -/
theorem rxFeed_complete {c : Config} {chunk : List Byte} {r : RxHalf} (hf : r.rxFault = none)
    (hh : isHeader r.st = true) (h0 : chunk ≠ []) (heq : r.haveBytes.toNat + chunk.length = needTotal r.st) :
    rxFeed c chunk r = headerOp c (storeChunk chunk r) := by
  have hn : chunk.length ≤ need r := by rw [need]; omega
  have hv := storeChunk_have (List.length_pos_of_ne_nil h0) hn
  rw [rxFeed_header hf hh h0 hn]
  obtain ⟨h, -⟩ | ⟨-, e⟩ := feedHeader_cases c chunk r
  · omega
  · exact e

/-- Storing a chunk does not read the answer. -/
theorem storeChunk_respond (chunk : List Byte) (r : RxHalf) (x : Response) :
    storeChunk chunk (r.respond x) = (storeChunk chunk r).respond x := rfl

/-- Storing two chunks is storing their join (R91). -/
theorem storeChunk_storeChunk {a b : List Byte} {r : RxHalf} (h0 : a ≠ [])
    (hlt : r.haveBytes.toNat + a.length < needTotal r.st) :
    storeChunk b (storeChunk a r) = storeChunk (a ++ b) r := by
  have hv : (storeChunk a r).haveBytes.toNat = r.haveBytes.toNat + a.length :=
    storeChunk_have (List.length_pos_of_ne_nil h0) (by rw [need]; omega)
  conv_lhs => rw [storeChunk, hv]
  simp [storeChunk, memWrite_append, Nat.add_assoc]

/-- Two chunks of a header field in a row leave what their join leaves, the answer included. -/
theorem rxFeed_header_append {c : Config} {a b : List Byte} {r : RxHalf} (hf : r.rxFault = none)
    (hh : isHeader r.st = true) (ha : a ≠ []) (hb : b ≠ [])
    (hle : r.haveBytes.toNat + a.length + b.length ≤ needTotal r.st) :
    rxFeed c b (rxFeed c a r) = rxFeed c (a ++ b) r := by
  have hbpos := List.length_pos_of_ne_nil hb
  have hapos := List.length_pos_of_ne_nil ha
  have hlt : r.haveBytes.toNat + a.length < needTotal r.st := by omega
  have hv : (storeChunk a r).haveBytes.toNat = r.haveBytes.toNat + a.length :=
    storeChunk_have hapos (by rw [need]; omega)
  have hab : a ++ b ≠ [] := by simp [ha]
  have hlen : (a ++ b).length = a.length + b.length := List.length_append
  rw [rxFeed_incomplete hf hh ha hlt]
  obtain hlast | hlast := Nat.lt_or_eq_of_le hle
  · rw [rxFeed_incomplete hf hh hab (by omega), rxFeed_incomplete (r := (storeChunk a r).respond _) hf hh hb
      (by rw [RxHalf.respond_haveBytes, hv]; exact hlast), storeChunk_respond, storeChunk_storeChunk ha hlt,
      RxHalf.respond_haveBytes, hv, hlen, ← Nat.add_assoc]
    rfl
  · rw [rxFeed_complete hf hh hab (by omega), rxFeed_complete (r := (storeChunk a r).respond _) hf hh hb
      (by rw [RxHalf.respond_haveBytes, hv]; exact hlast), storeChunk_respond, storeChunk_storeChunk ha hlt]
    exact headerOp_resp c (storeChunk (a ++ b) r) _ hh

/-! ### Payloads -/

/-- The RX half after the payload bytes `bytes`, whose last chunk was unmasked to `out` (R120). -/
def afterPayload (bytes out : List Byte) (r : RxHalf) : RxHalf :=
  { r with
    payIdx := BitVec.ofNat 64 (r.payIdx.toNat + bytes.length)
    rxs := r.rxs ++ bytes
    payout := r.payout ++ xorFrom r.key r.payIdx.toNat bytes
    resp := some (.payloadData out (r.maxread.toNat - (r.payIdx.toNat + bytes.length))) }

/-- A chunk the payload has room for is unmasked (R90 line 7, R120). -/
theorem rxFeed_eq_afterPayload {c : Config} {chunk : List Byte} {r : RxHalf} (hf : r.rxFault = none)
    (hs : r.st = .payload) (h0 : chunk ≠ []) (hc : chunkAllowed c chunk.length)
    (hle : r.payIdx.toNat + chunk.length ≤ r.maxread.toNat) :
    rxFeed c chunk r = afterPayload chunk (xorFrom r.key r.payIdx.toNat chunk) r :=
  rxFeed_payload (unmasks_of_chunk_fits hf hs (List.length_pos_of_ne_nil h0) hle hc)

/-- `pay_idx` does not wrap within the payload. -/
theorem afterPayload_payIdx_toNat {bytes out : List Byte} {r : RxHalf}
    (hle : r.payIdx.toNat + bytes.length ≤ r.maxread.toNat) :
    (afterPayload bytes out r).payIdx.toNat = r.payIdx.toNat + bytes.length :=
  Nat.mod_eq_of_lt (Nat.lt_of_le_of_lt hle r.maxread.isLt)

/-- Payload bytes taken in two goes are those bytes joined; the answer is the last one's. -/
theorem afterPayload_afterPayload {a b out out' : List Byte} {r : RxHalf}
    (hle : r.payIdx.toNat + a.length ≤ r.maxread.toNat) :
    afterPayload b out' (afterPayload a out r) = afterPayload (a ++ b) out' r := by
  have hidx := afterPayload_payIdx_toNat (out := out) hle
  conv_lhs => rw [afterPayload, hidx]
  simp [afterPayload, xorFrom_append, Nat.add_assoc]

/-- Every cutting of payload bytes leaves what the bytes joined leave; the answer is the last chunk's. -/
theorem feedChunks_eq_afterPayload {c : Config} {last : List Byte} {chunks : List (List Byte)} :
    ∀ {r : RxHalf}, r.rxFault = none → r.st = .payload → allowedCut c (chunks ++ [last]) →
      r.payIdx.toNat + (chunks ++ [last]).flatten.length ≤ r.maxread.toNat →
      feedChunks c (chunks ++ [last]) r = afterPayload (chunks ++ [last]).flatten
        (xorFrom r.key (r.payIdx.toNat + chunks.flatten.length) last) r := by
  induction chunks with
  | nil =>
    intro r hf hs hcut hle
    obtain ⟨h0, hc⟩ := hcut last (by simp)
    simpa [feedChunks] using rxFeed_eq_afterPayload hf hs h0 hc (by simpa using hle)
  | cons ch chs ih =>
    intro r hf hs hcut hle
    obtain ⟨h0, hc⟩ := hcut ch (by simp)
    have hsum : (ch :: chs ++ [last]).flatten.length = ch.length + (chs ++ [last]).flatten.length := by simp
    have hch : r.payIdx.toNat + ch.length ≤ r.maxread.toNat := by omega
    have hidx := afterPayload_payIdx_toNat (out := xorFrom r.key r.payIdx.toNat ch) hch
    show feedChunks c (chs ++ [last]) (rxFeed c ch r) = _
    rw [rxFeed_eq_afterPayload hf hs h0 hc hch, ih (r := afterPayload ch _ r) hf hs
      (fun x hx => hcut x (List.mem_cons_of_mem _ hx))
      (by rw [hidx]; show _ ≤ r.maxread.toNat; omega), afterPayload_afterPayload hch, hidx]
    simp [afterPayload, Nat.add_assoc]

/-- So the payload's bytes come out, and the parser stands after them. -/
theorem feedChunks_payload {c : Config} {chunks : List (List Byte)} {r : RxHalf} (hf : r.rxFault = none)
    (hs : r.st = .payload) (hcut : allowedCut c chunks)
    (hle : r.payIdx.toNat + chunks.flatten.length ≤ r.maxread.toNat) :
    (feedChunks c chunks r).payout = r.payout ++ xorFrom r.key r.payIdx.toNat chunks.flatten ∧
      (feedChunks c chunks r).payIdx.toNat = r.payIdx.toNat + chunks.flatten.length ∧
      (feedChunks c chunks r).maxread = r.maxread ∧ (feedChunks c chunks r).st = .payload := by
  obtain rfl | ⟨init, last, rfl⟩ := chunks.eq_nil_or_concat'
  · simp [feedChunks, xorFrom, hs]
  · rw [feedChunks_eq_afterPayload hf hs hcut hle]
    exact ⟨rfl, afterPayload_payIdx_toNat hle, rfl, hs⟩

/-- Feeding by commands is feeding the RX half; no RX_FEED stops the machine. -/
theorem feedInTurn_eq (chunks : List (List Byte)) :
    ∀ s : State, feedInTurn chunks s = .next { s with rx := feedChunks s.config chunks s.rx } := by
  induction chunks with
  | nil => intro s; rfl
  | cons ch chs ih => intro s; exact ih { s with rx := rxFeed s.config ch s.rx }

/-! ### The obligations -/

/-- Settles O10: the two chunks of a field are their join. -/
theorem headerChunksJoin : Obligations.HeaderChunksJoin := by
  unfold Obligations.HeaderChunksJoin
  intro s a b hf hs ha hb hle
  have hh : isHeader s.rx.st = true := eq_true_of_ne_false (mt (isHeader_false_iff _).mp hs)
  refine ⟨_, _, exec_rxFeed a s, exec_rxFeed b _, ?_⟩
  rw [exec_rxFeed, ← rxFeed_header_append hf hh ha hb hle]

/-- Settles O11: the registers are those after the joined bytes, and unmasking joins the outputs. -/
theorem payloadChunksJoin : Obligations.PayloadChunksJoin := by
  unfold Obligations.PayloadChunksJoin
  intro s a b hf hs ha hb hle hc
  have hlea : s.rx.payIdx.toNat + a.length ≤ s.rx.maxread.toNat := by omega
  have hca : chunkAllowed s.config a.length := fun k hk => Nat.le_trans (Nat.le_add_right _ _) (hc k hk)
  have hcb : chunkAllowed s.config b.length := fun k hk => Nat.le_trans (Nat.le_add_left _ _) (hc k hk)
  have hidx := afterPayload_payIdx_toNat (out := xorFrom s.rx.key s.rx.payIdx.toNat a) hlea
  have ht := rxFeed_eq_afterPayload hf hs ha hca hlea
  have hu : rxFeed s.config b (rxFeed s.config a s.rx)
      = afterPayload (a ++ b) (xorFrom s.rx.key (s.rx.payIdx.toNat + a.length) b) s.rx := by
    rw [ht, rxFeed_eq_afterPayload (r := afterPayload a _ s.rx) hf hs hb hcb (by rw [hidx]; exact hle), hidx,
      afterPayload_afterPayload hlea]
    rfl
  have hv := rxFeed_eq_afterPayload (chunk := a ++ b) hf hs (by simp [ha]) (by rwa [List.length_append])
    (by rw [List.length_append]; omega)
  refine ⟨_, _, _, exec_rxFeed a s, exec_rxFeed b _, exec_rxFeed (a ++ b) s, ?_, xorFrom s.rx.key s.rx.payIdx.toNat a,
    xorFrom s.rx.key (s.rx.payIdx.toNat + a.length) b, s.rx.maxread.toNat - (s.rx.payIdx.toNat + a.length),
    s.rx.maxread.toNat - (s.rx.payIdx.toNat + (a ++ b).length), ?_, ?_, ?_⟩
  · simp only [hu, hv]
    rfl
  · simp only [ht]
    rfl
  · simp only [hu]
    rfl
  · simp only [hv, xorFrom_append]
    rfl

/-- Settles O12: by induction on the chunks before the last. -/
theorem everyCuttingOfThePayloadAgrees : Obligations.EveryCuttingOfThePayloadAgrees := by
  unfold Obligations.EveryCuttingOfThePayloadAgrees
  intro s chunks last hf hs hcut hle
  have hfeed := feedChunks_eq_afterPayload hf hs hcut hle
  have hout : xorFrom s.rx.key s.rx.payIdx.toNat (chunks ++ [last]).flatten
      = xorFrom s.rx.key s.rx.payIdx.toNat chunks.flatten
        ++ xorFrom s.rx.key (s.rx.payIdx.toNat + chunks.flatten.length) last := by
    simp [xorFrom_append]
  have hidx := afterPayload_payIdx_toNat (out := []) hle
  refine ⟨_, _, _, _, feedInTurn_eq _ s, rfl, hidx, xorFrom_length _ _ _, hout.symm, ?_⟩
  rw [hfeed, hidx, ← hout]
  rfl

end Sys2Proof.Proofs
end

section
/-! Header bytes 0 and 1 on the wire (30_encoding.md sections 1 to 5): what one byte does in `Initial` and in `Length`, and that
the row a byte decodes to is RX_FEED of the byte; then the obligations about the wire forms and the table. -/

namespace Sys2Proof.Proofs

open Sys2Proof.Machine Sys2Proof.Stated

/-- The RX half with one header byte stored, before the operation of `st` (R91). -/
def withByte (b : Byte) (r : RxHalf) : RxHalf :=
  { r with scratch := r.scratch.set 0 b, haveBytes := 1, rxs := r.rxs ++ [b] }

/-- The byte lies where HP.INITIAL and HP.LENGTH read it. -/
@[simp] theorem withByte_scratch_zero (b : Byte) (r : RxHalf) : (withByte b r).scratch[0] = b :=
  Vector.getElem_set_self _

/-- A byte in `Initial` is byte 0. -/
theorem rxFeed_initial (c : Config) (b : Byte) {r : RxHalf} (hf : r.rxFault = none) (hs : r.st = .initial)
    (hb : r.haveBytes = 0) : rxFeed c [b] r = hpInitial (withByte b r) := by
  rw [rxFeed_one c b r hf (by rw [hs]; rfl) hb, headerOp]
  simp only [hs, withByte]

/-- A byte in `Length` is byte 1. -/
theorem rxFeed_length (c : Config) (b : Byte) {r : RxHalf} (hf : r.rxFault = none) (hs : r.st = .length)
    (hb : r.haveBytes = 0) : rxFeed c [b] r = hpLength (withByte b r) := by
  rw [rxFeed_one c b r hf (by rw [hs]; rfl) hb, headerOp]
  simp only [hs, withByte]

/-- The three outcomes of byte 0, told by the byte. -/
theorem hpInitial_withByte_cases (b : Byte) (r : RxHalf) :
    let w : RxHalf := { withByte b r with fin := b0Fin b, rsv := b0Rsv b, opcode := b0Opcode b }
    (b0Rsv b ≠ 0 ∧ hpInitial (withByte b r) = raise .protocol .rsvNonzero w) ∨
    (b0Rsv b = 0 ∧ validOpcode (b0Opcode b) = false ∧ hpInitial (withByte b r) = raise .protocol .badOpcode w) ∨
    (b0Rsv b = 0 ∧ validOpcode (b0Opcode b) = true ∧
      hpInitial (withByte b r) = (w.goTo .length).respond (.needMore 1)) := by
  simpa only [withByte_scratch_zero] using hpInitial_cases (withByte b r)

/-- The four outcomes of byte 1, told by the byte. -/
theorem hpLength_withByte_cases (b : Byte) (r : RxHalf) :
    let w : RxHalf := { withByte b r with masked := b1Mask b }
    (b1Mask b = false ∧ hpLength (withByte b r) = raise .protocol .noMask w) ∨
    (b1Mask b = true ∧ b1Len7 b = 126 ∧
      hpLength (withByte b r) = (w.goTo .extendedLength16).respond (.needMore 2)) ∨
    (b1Mask b = true ∧ b1Len7 b = 127 ∧
      hpLength (withByte b r) = (w.goTo .extendedLength64).respond (.needMore 8)) ∨
    (b1Mask b = true ∧ b1Len7 b ≠ 126 ∧ b1Len7 b ≠ 127 ∧
      hpLength (withByte b r)
        = (({ w with declaredLength := (b1Len7 b).setWidth 64 }).goTo .mask).respond (.needMore 4)) := by
  simpa only [withByte_scratch_zero] using hpLength_cases (withByte b r)

/-- A byte 0 with a valid opcode starts the frame (R93). -/
theorem rxFeed_byteZero (c : Config) (fin : Bool) {op : BitVec 4} {r : RxHalf} (hv : validOpcode op = true)
    (hf : r.rxFault = none) (hs : r.st = .initial) (hb : r.haveBytes = 0) :
    rxFeed c [mkB0 fin op] r =
      { r with
        fin := fin, rsv := 0, opcode := op, scratch := r.scratch.set 0 (mkB0 fin op)
        st := .length, haveBytes := 0, rxs := r.rxs ++ [mkB0 fin op], resp := some (.needMore 1) } := by
  rw [rxFeed_initial c _ hf hs hb]
  obtain ⟨h, -⟩ | ⟨-, h, -⟩ | ⟨-, -, e⟩ := hpInitial_withByte_cases (mkB0 fin op) r
  · exact absurd (b0Rsv_mkB0 fin op) h
  · rw [b0Opcode_mkB0, hv] at h
    cases h
  · rw [e, b0Fin_mkB0, b0Rsv_mkB0, b0Opcode_mkB0]
    rfl

/-- A masked byte 1 with the field 127 (R94). -/
theorem rxFeed_lengthSelector64 (c : Config) {r : RxHalf} (hf : r.rxFault = none) (hs : r.st = .length)
    (hb : r.haveBytes = 0) :
    rxFeed c [0xFF] r =
      { r with masked := true, scratch := r.scratch.set 0 0xFF, st := .extendedLength64, haveBytes := 0
               rxs := r.rxs ++ [0xFF], resp := some (.needMore 8) } := by
  rw [rxFeed_length c _ hf hs hb]
  obtain ⟨h, -⟩ | ⟨-, h, -⟩ | ⟨-, -, e⟩ | ⟨-, -, h, -⟩ := hpLength_withByte_cases 0xFF r
  · exact absurd h (by decide)
  · exact absurd h (by decide)
  · exact e
  · exact absurd (by decide) h

/-- A masked byte 1 with the field 126 (R94). -/
theorem rxFeed_lengthSelector16 (c : Config) {r : RxHalf} (hf : r.rxFault = none) (hs : r.st = .length)
    (hb : r.haveBytes = 0) :
    rxFeed c [0xFE] r =
      { r with masked := true, scratch := r.scratch.set 0 0xFE, st := .extendedLength16, haveBytes := 0
               rxs := r.rxs ++ [0xFE], resp := some (.needMore 2) } := by
  rw [rxFeed_length c _ hf hs hb]
  obtain ⟨h, -⟩ | ⟨-, -, e⟩ | ⟨-, h, -⟩ | ⟨-, h, -⟩ := hpLength_withByte_cases 0xFE r
  · exact absurd h (by decide)
  · exact e
  · exact absurd h (by decide)
  · exact absurd (by decide) h

/-- A masked byte 1 with a direct length (R94). -/
theorem rxFeed_directLength (c : Config) {l : BitVec 7} {r : RxHalf} (hl : l.toNat ≤ 125) (hf : r.rxFault = none)
    (hs : r.st = .length) (hb : r.haveBytes = 0) :
    rxFeed c [mkB1 true l] r =
      { r with masked := true, declaredLength := l.setWidth 64, scratch := r.scratch.set 0 (mkB1 true l), st := .mask
               haveBytes := 0, rxs := r.rxs ++ [mkB1 true l], resp := some (.needMore 4) } := by
  rw [rxFeed_length c _ hf hs hb]
  obtain ⟨h, -⟩ | ⟨-, h, -⟩ | ⟨-, h, -⟩ | ⟨-, -, -, e⟩ := hpLength_withByte_cases (mkB1 true l) r
  · rw [b1Mask_mkB1] at h
    cases h
  · rw [b1Len7_mkB1] at h
    subst h
    contradiction
  · rw [b1Len7_mkB1] at h
    subst h
    contradiction
  · rw [e, b1Mask_mkB1, b1Len7_mkB1]
    rfl

/-- The row of a byte 0 is RX_FEED of the byte (log entry 2). -/
theorem exec_of_encode_rxB0 {i : Instr} {b : Byte} (s : State) (h : encode i = .rxB0 b) :
    exec i s = exec (.rxFeed [b]) s := by
  cases i <;> cases h <;> rfl

/-- The row of a byte 1 is RX_FEED of the byte (log entry 2). -/
theorem exec_of_encode_rxB1 {i : Instr} {b : Byte} (s : State) (h : encode i = .rxB1 b) :
    exec i s = exec (.rxFeed [b]) s := by
  cases i <;> cases h <;> rfl

/-- A masked byte 1 selects 64 bits as 0xFF only, and 16 bits as 0xFE only. -/
theorem b1Len7_eq_selector_iff {b : Byte} (hm : b1Mask b = true) :
    (b1Len7 b = 127 ↔ b = 0xFF) ∧ (b1Len7 b = 126 ↔ b = 0xFE) := by
  revert b; decide

/-- Settles O13: each form's byte is byte 0 of its opcode. -/
theorem byteZeroFormsStartTheFrame : Obligations.ByteZeroFormsStartTheFrame := by
  unfold Obligations.ByteZeroFormsStartTheFrame
  intro s fin
  have starts (op : BitVec 4) (hv : validOpcode op = true) (hf : s.rx.rxFault = none) (hs : s.rx.st = .initial)
      (hb : s.rx.haveBytes = 0) := exec_rxFeed_of_eq (rxFeed_byteZero s.config fin hv hf hs hb)
  simp only [List.forall_mem_cons, List.not_mem_nil, false_imp_iff, implies_true, and_true]
  exact ⟨⟨rfl, starts opCont rfl⟩, ⟨rfl, starts opText rfl⟩, ⟨rfl, starts opBin rfl⟩, ⟨rfl, starts opClose rfl⟩,
    ⟨rfl, starts opPing rfl⟩, ⟨rfl, starts opPong rfl⟩⟩

/-- Settles O14: the three forms of byte 1, by the selector or the direct length. -/
theorem byteOneFormsSelectTheLength : Obligations.ByteOneFormsSelectTheLength := by
  unfold Obligations.ByteOneFormsSelectTheLength
  intro s l
  refine ⟨rfl, rfl, rfl, fun hf hs hb => ⟨?_, ?_, fun hl => ?_⟩⟩
  · exact exec_rxFeed_of_eq (rxFeed_lengthSelector64 s.config hf hs hb)
  · exact exec_rxFeed_of_eq (rxFeed_lengthSelector16 s.config hf hs hb)
  · simp only [BitVec.ofNat_toNat]
    exact exec_rxFeed_of_eq (rxFeed_directLength s.config hl hf hs hb)

/-- Settles O15: the parser's three outcomes and the decoder's are told by the same two tests of the byte. -/
theorem parserAgreesWithTableOnByteZero : Obligations.ParserAgreesWithTableOnByteZero := by
  unfold Obligations.ParserAgreesWithTableOnByteZero
  intro s b hf hs hb
  have hfeed := exec_rxFeed_of_eq (rxFeed_initial s.config b hf hs hb)
  refine ⟨_, hfeed, ?_⟩
  obtain ⟨hr, e⟩ | ⟨hr, hv, e⟩ | ⟨hr, hv, e⟩ := hpInitial_withByte_cases b s.rx
  · obtain ⟨-, hd⟩ | ⟨h, -⟩ | ⟨h, -⟩ := decodeRxB0_cases b
    · exact .inr (.inl ⟨hd, by rw [e]; exact hs, by rw [e]; rfl, by rw [e]; rfl⟩)
    · exact absurd h hr
    · exact absurd h hr
  · obtain ⟨h, -⟩ | ⟨-, -, hd⟩ | ⟨-, h, -⟩ := decodeRxB0_cases b
    · exact absurd hr h
    · exact .inr (.inr ⟨hd, by rw [e]; exact hs, by rw [e]; rfl, by rw [e]; rfl⟩)
    · exact Bool.noConfusion (hv.symm.trans h)
  · obtain ⟨h, -⟩ | ⟨-, h, -⟩ | ⟨-, -, i, hd, henc, -⟩ := decodeRxB0_cases b
    · exact absurd hr h
    · exact Bool.noConfusion (hv.symm.trans h)
    · exact .inl ⟨i, hd, (exec_of_encode_rxB0 s henc).trans hfeed, by rw [e]; rfl, by rw [e]; exact hf⟩

/-- Settles O16: the parser and the decoder make the same test of the mask bit, and the length field is the byte's own. -/
theorem parserAgreesWithTableOnByteOne : Obligations.ParserAgreesWithTableOnByteOne := by
  unfold Obligations.ParserAgreesWithTableOnByteOne
  intro s b hf hs hb
  have hfeed := exec_rxFeed_of_eq (rxFeed_length s.config b hf hs hb)
  refine ⟨_, hfeed, ?_⟩
  obtain ⟨hm, hd⟩ | ⟨hm, i, hd, henc, -⟩ := decodeRxB1_cases b
  · obtain ⟨-, e⟩ | ⟨h, -⟩ | ⟨h, -⟩ | ⟨h, -⟩ := hpLength_withByte_cases b s.rx
    · exact .inr ⟨hd, by rw [e]; exact hs, by rw [e]; rfl, by rw [e]; rfl⟩
    all_goals exact Bool.noConfusion (hm.symm.trans h)
  · refine .inl ⟨i, hd, (exec_of_encode_rxB1 s henc).trans hfeed, ?_⟩
    obtain ⟨h127, h126⟩ := b1Len7_eq_selector_iff hm
    simp only [← h127, ← h126]
    obtain ⟨h, -⟩ | ⟨-, hl, e⟩ | ⟨-, hl, e⟩ | ⟨-, h6, h7, e⟩ := hpLength_withByte_cases b s.rx
    · exact Bool.noConfusion (hm.symm.trans h)
    · rw [e]
      exact ⟨hm, hf, by rw [hl]; rfl⟩
    · rw [e]
      exact ⟨hm, hf, (if_pos hl).symm⟩
    · rw [e]
      exact ⟨hm, hf, ((if_neg h7).trans (if_neg h6)).symm⟩

end Sys2Proof.Proofs
end

section
/-! The TX header writer (42_tx_header_writer.md): the header TX_WRITE emits as one list of bytes over the old `txh`, and the
rows of formats TX.B0 and TX.B1 by themselves; then the obligations about the writer and about `write`. -/

namespace Sys2Proof.Proofs

open Sys2Proof.Machine Sys2Proof.Stated

/-! ### The emitted header -/

/-- The obligations' header is the shortest unmasked one (R68, R84). -/
theorem emitted_eq_headerBytes (op : BitVec 4) (len : BitVec 64) :
    emitted op len = headerBytes true op false len.toNat := by
  have h16 : ext16Bytes (len.setWidth 16) = [len.extractLsb' 8 8, len.extractLsb' 0 8] := by
    simp only [ext16Bytes, List.cons.injEq, and_true]
    exact ⟨by ext i hi; simp; omega, by ext i hi; simp; omega⟩
  unfold emitted headerBytes
  simp only [BitVec.ofNat_toNat, BitVec.setWidth_eq]
  split_ifs with h1 h2
  · have h7 : mkB1 false (len.setWidth 7) = len.setWidth 8 := by
      rw [mkB1, if_neg (by decide), BitVec.zero_or]
      bv_omega
    rw [h7]
    rfl
  · rw [h16]
    rfl
  · rfl

/-- Byte 0, byte 1 without the mask bit, and the extension bytes (R135, R139, R140). -/
theorem emitted_eq_cons_cons (op : BitVec 4) (len : BitVec 64) :
    ∃ b1 rest, emitted op len = mkB0 true op :: b1 :: rest ∧ b1Mask b1 = false := by
  rw [emitted_eq_headerBytes]
  unfold headerBytes
  split_ifs
  · exact ⟨_, _, rfl, b1Mask_mkB1 _ _⟩
  · exact ⟨_, _, rfl, b1Mask_mkB1 _ _⟩
  · exact ⟨_, _, rfl, b1Mask_mkB1 _ _⟩

/-- Everything after byte 0 is the encoding of the form the length selects (R68). -/
theorem encode_formOf (op : BitVec 4) (len : BitVec 64) : encode (formOf len) = .txB1 (emitted op len).tail := by
  rw [emitted_eq_headerBytes]
  unfold formOf headerBytes
  simp only [BitVec.ofNat_toNat, BitVec.setWidth_eq]
  split_ifs <;> rfl

/-- The form the length selects is well-formed. -/
theorem formOf_wellFormed (len : BitVec 64) : (formOf len).wellFormed = true := by
  unfold formOf
  split_ifs
  · refine decide_eq_true ?_
    rw [BitVec.toNat_setWidth]
    omega
  · rfl
  · rfl

/-- The form determines the length. -/
theorem formOf_injective {len len' : BitVec 64} (h : formOf len = formOf len') : len = len' := by
  unfold formOf at h
  split_ifs at h <;> injection h with h
  · bv_omega
  · bv_omega

/-- The header determines opcode and length: its first byte holds the one, and what follows decodes to the other's form. -/
theorem emitted_injective {op op' : BitVec 4} {len len' : BitVec 64} (h : emitted op len = emitted op' len') :
    op = op' ∧ len = len' := by
  constructor
  · have h0 : mkB0 true op = mkB0 true op' := (List.cons.inj h).1
    rw [← b0Opcode_mkB0 true op, h0, b0Opcode_mkB0]
  · have henc : encode (formOf len) = encode (formOf len') := by
      rw [encode_formOf op, encode_formOf op', h]
    have hdec := decodeOfEncode _ (formOf_wellFormed len)
    rw [henc, decodeOfEncode _ (formOf_wellFormed len')] at hdec
    exact (formOf_injective (Except.ok.inj hdec)).symm

/-! ### TX_WRITE -/

/-- A write at offset 0 puts its bytes over the old ones. -/
theorem memWrite_zero_getElem {k : Nat} (f : Vector Byte k) (bytes : List Byte) (i : Nat) (hi : i < k) :
    (memWrite f 0 bytes)[i] = bytes.getD i f[i] := by
  rw [memWrite_getElem]
  split
  · exact (List.getD_eq_getElem _ _ (by omega)).symm
  · exact (List.getD_eq_default _ _ (by omega)).symm

/-- Writing the same bytes over themselves changes nothing. -/
theorem memWrite_zero_idem {k : Nat} (f : Vector Byte k) (bytes : List Byte) :
    memWrite (memWrite f 0 bytes) 0 bytes = memWrite f 0 bytes := by
  refine Vector.ext fun i hi => ?_
  simp only [memWrite_zero_getElem]
  by_cases h : i < bytes.length
  · rw [List.getD_eq_getElem _ _ h, List.getD_eq_getElem _ _ h]
  · rw [List.getD_eq_default _ _ (Nat.le_of_not_lt h)]

/-- Byte 0 and the length form leave the header in `txh`, over the old bytes, and its length in `txh_len` (R136 to R139). -/
theorem hwLength_hwByte0 (op : BitVec 4) (len : BitVec 64) (t : TxHalf) :
    hwLength len (hwByte0 op t) =
      { t with txh := memWrite t.txh 0 (emitted op len), txhLen := BitVec.ofNat 4 (emitted op len).length } := by
  have hjoin (rest : List Byte) : memWrite (memWrite t.txh 0 [mkB0 true op]) 1 rest = memWrite t.txh 0 (mkB0 true op :: rest) :=
    memWrite_append [mkB0 true op] rest t.txh 0
  rw [emitted_eq_headerBytes]
  unfold hwLength headerBytes
  simp only [BitVec.ofNat_toNat, BitVec.setWidth_eq]
  split_ifs
  · rw [hwLen7, hwByte0, hjoin]
    rfl
  · rw [hwLen16, hwByte0, hjoin]
    rfl
  · rw [hwLen64, hwByte0, hjoin]
    rfl

/-- An emitted header fits `txh` (R27). -/
theorem emitted_length_le (op : BitVec 4) (len : BitVec 64) : (emitted op len).length ≤ 10 := by
  unfold emitted
  split_ifs <;> simp

/-- What a half that holds an emitted header gives out is the header. -/
theorem txhOut_of_emitted {op : BitVec 4} {len : BitVec 64} {t : TxHalf} {f : Vector Byte 10}
    (h : t.txh = memWrite f 0 (emitted op len)) (hl : t.txhLen = BitVec.ofNat 4 (emitted op len).length) :
    txhOut t = emitted op len := by
  have hle := emitted_length_le op len
  have hlen : t.txhLen.toNat = (emitted op len).length := by
    rw [hl, BitVec.toNat_ofNat]
    omega
  rw [txhOut, h, hlen, memRead_memWrite _ _ hle]

/-- TX_WRITE of a valid opcode: the header in `txh`, answered, and given out (R135). -/
theorem txWrite_of_valid {op : BitVec 4} (hv : validOpcode op = true) (len : BitVec 64) (t : TxHalf) :
    txWrite op len t =
      { t with txh := memWrite t.txh 0 (emitted op len), txhLen := BitVec.ofNat 4 (emitted op len).length
               resp := some (.header (emitted op len)), txs := t.txs ++ emitted op len } := by
  obtain ⟨h, -⟩ | ⟨-, e⟩ := txWrite_cases op len t
  · exact Bool.noConfusion (hv.symm.trans h)
  · rw [e, hwLength_hwByte0, emitHeader, txhOut_of_emitted rfl rfl]
    rfl

/-- TX_WRITE of an invalid opcode (R135 line 1). -/
theorem txWrite_of_invalid {op : BitVec 4} (hv : ¬validOpcode op = true) (len : BitVec 64) (t : TxHalf) :
    txWrite op len t = t.respond (.invalidArgument .badOpcode) := if_pos (Bool.eq_false_iff.mpr hv)

/-- TX_WRITE in the block is TX_WRITE of its TX half. -/
theorem exec_txWrite (op : BitVec 4) (len : BitVec 64) (s : State) :
    exec (.txWrite op len) s = .next { s with tx := txWrite op len s.tx } := rfl

/-- `txh_len` by the length form (R136 to R138). -/
theorem ofNat_emitted_length (op : BitVec 4) (len : BitVec 64) :
    BitVec.ofNat 4 (emitted op len).length = if len.toNat ≤ 125 then 2 else if len.toNat ≤ 65535 then 4 else 10 := by
  unfold emitted
  split_ifs <;> rfl

/-- The form the length selects, executed, is that part of TX_WRITE. -/
theorem exec_formOf (len : BitVec 64) (s : State) : exec (formOf len) s = .next (s.onTx (hwLength len)) := by
  unfold formOf hwLength
  split_ifs <;> rfl

/-- Equal TX halves make equal next states. -/
theorem next_tx_congr {t t' : TxHalf} (s : State) (h : t = t') :
    (.next { s with tx := t } : Host.Outcome State Fault Refusal) = .next { s with tx := t' } := by
  rw [h]

/-! ### The obligations -/

/-- Settles O25: the header lies in `txh` from offset 0, over the old bytes. -/
theorem txWriteBuildsTheHeader : Obligations.TxWriteBuildsTheHeader := by
  unfold Obligations.TxWriteBuildsTheHeader
  intro s op len hop
  refine ⟨memWrite s.tx.txh 0 (emitted op len), memWrite_zero_getElem _ _, ?_⟩
  rw [exec_txWrite, txWrite_of_valid ((mem_opcodes_iff op).mp hop), ofNat_emitted_length]

/-- Settles O26: line 1 of R135. -/
theorem txWriteRejectsInvalidOpcode : Obligations.TxWriteRejectsInvalidOpcode := by
  unfold Obligations.TxWriteRejectsInvalidOpcode
  intro s op len hop
  rw [exec_txWrite, txWrite_of_invalid (mt (mem_opcodes_iff op).mpr hop)]
  rfl

/-- Settles O27: TX_RESET has one line. -/
theorem txResetClearsTheHalf : Obligations.TxResetClearsTheHalf := by
  unfold Obligations.TxResetClearsTheHalf
  exact fun s => rfl

/-- Byte 0 in the terms of a plain write (R139). -/
theorem hwByte0_eq_set (op : BitVec 4) (t : TxHalf) : hwByte0 op t = { t with txh := t.txh.set 0 (mkB0 true op) } := by
  rw [hwByte0, memWrite, memWrite, setIfInBounds_eq_set]

/-- Settles O28: each row writes the byte of its opcode. -/
theorem emittedByteZero : Obligations.EmittedByteZero := by
  unfold Obligations.EmittedByteZero
  intro s
  have row (op : BitVec 4) := next_tx_congr s (hwByte0_eq_set op s.tx)
  simp only [List.forall_mem_cons, List.not_mem_nil, false_imp_iff, implies_true, and_true]
  exact ⟨⟨rfl, row opCont⟩, ⟨rfl, row opText⟩, ⟨rfl, row opBin⟩, ⟨rfl, row opClose⟩, ⟨rfl, row opPing⟩,
    ⟨rfl, row opPong⟩⟩

/-- HW.LEN7 in the terms of a plain write (R136). -/
theorem hwLen7_eq_set (len : BitVec 7) (t : TxHalf) :
    hwLen7 len t = { t with txh := t.txh.set 1 (BitVec.ofNat 8 len.toNat), txhLen := 2 } := by
  have hb : mkB1 false len = BitVec.ofNat 8 len.toNat := by
    rw [mkB1, if_neg (by decide), BitVec.zero_or, BitVec.ofNat_toNat]
  rw [hwLen7, memWrite, memWrite, setIfInBounds_eq_set, hb]

/-- HW.LEN16 in the terms of plain writes (R137). -/
theorem hwLen16_eq_set (len : BitVec 16) (t : TxHalf) :
    hwLen16 len t =
      { t with
        txh := ((t.txh.set 1 0x7E).set 2 (BitVec.ofNat 8 (len.toNat / 256))).set 3 (BitVec.ofNat 8 len.toNat)
        txhLen := 4 } := by
  rw [hwLen16, ext16Bytes_eq]
  simp only [memWrite, setIfInBounds_eq_set, Nat.reduceAdd, Nat.reduceLT]
  rfl

/-- Settles O29: the two forms as plain writes. -/
theorem emittedShortLengths : Obligations.EmittedShortLengths := by
  unfold Obligations.EmittedShortLengths
  intro s
  exact ⟨fun len _ => next_tx_congr s (hwLen7_eq_set len s.tx), fun len => next_tx_congr s (hwLen16_eq_set len s.tx)⟩

/-- The `i`-th extension byte of form T64 as a number (R70). -/
theorem ext64Bytes_getElem (len : BitVec 64) (i : Nat) (hi : i < (ext64Bytes len).length) :
    (ext64Bytes len)[i] = BitVec.ofNat 8 (len.toNat / 2 ^ (56 - 8 * i)) := by
  have h : ext64Bytes len = (List.range 8).map fun i => len.extractLsb' (56 - 8 * i) 8 := rfl
  simp only [h, List.getElem_map, List.getElem_range, BitVec.extractLsb', Nat.shiftRight_eq_div_pow]

/-- Settles O30: the nine bytes lie in `txh` from offset 1. -/
theorem emittedLongLength : Obligations.EmittedLongLength := by
  unfold Obligations.EmittedLongLength
  intro s len
  refine ⟨memWrite s.tx.txh 1 (0x7F#8 :: ext64Bytes len), ?_, ?_, fun i hi => ?_, rfl⟩
  · rw [memWrite_getElem, dif_neg (by omega)]
  · rw [memWrite_getElem, dif_pos ⟨by omega, by simp⟩]
    rfl
  · have hlen : (ext64Bytes len).length = 8 := rfl
    rw [memWrite_getElem, dif_pos ⟨by omega, by simp only [List.length_cons]; omega⟩, ← ext64Bytes_getElem len i (by omega)]
    simp only [show 2 + i - 1 = i + 1 by omega, List.getElem_cons_succ]

/-- Settles O31: TX_WRITE of a valid opcode is the two rows, and then the emission. -/
theorem txWriteIsByteZeroThenForm : Obligations.TxWriteIsByteZeroThenForm := by
  unfold Obligations.TxWriteIsByteZeroThenForm
  intro s len
  have both (op : BitVec 4) (i : Instr) (hv : validOpcode op = true) (hi : exec i s = .next (s.onTx (hwByte0 op))) :
      ∃ t u v, exec i s = .next t ∧ exec (formOf len) t = .next u ∧ exec (.txWrite op len) s = .next v ∧
        v.tx.txh = u.tx.txh ∧ v.tx.txhLen = u.tx.txhLen ∧ v.tx.resp = some (.header (txhOut u.tx)) := by
    obtain ⟨h, -⟩ | ⟨-, e⟩ := txWrite_cases op len s.tx
    · exact Bool.noConfusion (hv.symm.trans h)
    · exact ⟨_, _, _, hi, exec_formOf len _, exec_txWrite op len s, by rw [e]; rfl, by rw [e]; rfl, by rw [e]; rfl⟩
  simp only [List.forall_mem_cons, List.not_mem_nil, false_imp_iff, implies_true, and_true]
  exact ⟨both opCont _ rfl rfl, both opText _ rfl rfl, both opBin _ rfl rfl, both opClose _ rfl rfl,
    both opPing _ rfl rfl, both opPong _ rfl rfl⟩

/-- Settles O32: both answers are emitted headers, and these are injective. -/
theorem emittedHeaderIsInjective : Obligations.EmittedHeaderIsInjective := by
  unfold Obligations.EmittedHeaderIsInjective
  intro s s' t t' op op' len len' hop hop' h h' hresp
  rw [exec_txWrite, txWrite_of_valid ((mem_opcodes_iff op).mp hop)] at h
  rw [exec_txWrite, txWrite_of_valid ((mem_opcodes_iff op').mp hop')] at h'
  cases h
  cases h'
  exact emitted_injective (Response.header.inj (Option.some.inj hresp))

/-- Settles O33: the second header lies over the first, which it equals. -/
theorem txWriteIsIdempotent : Obligations.TxWriteIsIdempotent := by
  unfold Obligations.TxWriteIsIdempotent
  intro s op len
  refine ⟨_, _, exec_txWrite op len s, exec_txWrite op len _, rfl, ?_⟩
  by_cases hv : validOpcode op = true
  · simp only [txWrite_of_valid hv, memWrite_zero_idem, and_self]
  · simp only [txWrite_of_invalid hv]
    exact ⟨rfl, rfl, rfl⟩

/-- Settles O34: byte 0 is accepted, and byte 1 has no mask bit. -/
theorem unmaskedLoopbackFaults : Obligations.UnmaskedLoopbackFaults := by
  unfold Obligations.UnmaskedLoopbackFaults
  intro s r op len hop hf hs hb
  have hv := (mem_opcodes_iff op).mp hop
  obtain ⟨b1, rest, hemit, hm⟩ := emitted_eq_cons_cons op len
  have hresp : (txWrite op len s.tx).resp = some (.header (mkB0 true op :: b1 :: rest)) := by
    rw [txWrite_of_valid hv, hemit]
  have hu := exec_rxFeed_of_eq (rxFeed_byteZero r.config true hv hf hs hb)
  refine ⟨_, _, _, _, _, _, exec_txWrite op len s, hresp, hu, hf, exec_rxFeed_of_eq (rxFeed_length _ b1 hf rfl rfl), ?_⟩
  obtain ⟨-, e⟩ | ⟨h, -⟩ | ⟨h, -⟩ | ⟨h, -⟩ := hpLength_withByte_cases b1 _
  · rw [e]
    exact ⟨rfl, rfl, rfl⟩
  all_goals exact Bool.noConfusion (hm.symm.trans h)

/-- `write` of a valid opcode drains the emitted header and then the `len` payload bytes there are (R167). -/
theorem hostWrite_of_valid {op : BitVec 4} (hv : validOpcode op = true) {payload : Option (List Byte)} {len : BitVec 64}
    {bytes : List Byte} (hp : payloadOf payload len.toNat = some bytes) (t : TxHalf) :
    hostWrite op payload len t = (txWrite op len t, .send (emitted op len ++ bytes)) := by
  have hout : txhOut (txWrite op len t) = emitted op len := by
    rw [txWrite_of_valid hv]
    exact txhOut_of_emitted rfl rfl
  rw [hostWrite, if_pos hv, hp, hout]

/-- Settles O56: the plan by what `payload[0 .. len-1]` is. -/
theorem writeSendsHeaderThenPayload : Obligations.WriteSendsHeaderThenPayload := by
  unfold Obligations.WriteSendsHeaderThenPayload
  intro op t
  simp only [mem_opcodes_iff]
  refine ⟨fun sent beyond hv hlt => ?_, fun hv => ?_, fun payload len hv => ?_, fun payload len hv hlt => ?_⟩
  · have hlen : (BitVec.ofNat 64 sent.length).toNat = sent.length := Nat.mod_eq_of_lt hlt
    exact hostWrite_of_valid hv (by rw [hlen]; exact payloadOf_append sent beyond) t
  · rw [hostWrite_of_valid hv (bytes := []) rfl, List.append_nil]
  · rw [hostWrite, if_neg hv, txWrite_of_invalid hv]
    rfl
  · rw [hostWrite, if_pos hv, payloadOf_short hlt]

end Sys2Proof.Proofs
end

section
/-! Rules of the whole machine (20_memory.md sections 6, 9, 10_state.md, 60_exceptions.md sections 4, 5): the two halves do not
touch, host inputs do not stop the machine, and what every move of the RX half keeps; then the obligations about them. -/

namespace Sys2Proof.Proofs

open Sys2Proof.Machine Sys2Proof.Safety Sys2Proof.Stated

/-! ### The two halves -/

/-- Settles O44: an instruction of the one half acts through its move, of the other through `RxMove`. -/
theorem instructionsTouchOneHalf : Obligations.InstructionsTouchOneHalf := by
  unfold Obligations.InstructionsTouchOneHalf
  intro i s t h
  cases hi : isTx i
  · obtain ⟨e, -⟩ := exec_rxMove hi h
    rw [e]
    exact ⟨rfl, rfl, fun hc => Bool.noConfusion hc, fun _ => rfl⟩
  · rw [exec_txMove s hi] at h
    cases h
    exact ⟨rfl, rfl, fun _ => rfl, fun hc => Bool.noConfusion hc⟩

/-- An RX outcome is a next state where the instruction acts. -/
theorem rxOutcome_eq_next {s t : State} {o : Option RxHalf} :
    rxOutcome s o = .next t ↔ ∃ r, o = some r ∧ t = { s with rx := r } := by
  cases o <;> simp [rxOutcome, eq_comm]

/-- Settles O45: the outcome is a function of the RX half and the configuration. -/
theorem rxHalfIgnoresTxHalf : Obligations.RxHalfIgnoresTxHalf := by
  unfold Obligations.RxHalfIgnoresTxHalf
  intro i s s' t hi hrx hc h
  rw [exec_rxAct s hi, rxOutcome_eq_next] at h
  obtain ⟨r, hact, rfl⟩ := h
  have hact' : rxAct s'.config i s'.rx = some r := by rw [← hrx, ← hc, hact]
  exact ⟨{ s' with rx := r }, by rw [exec_rxAct s' hi, hact']; rfl, rfl⟩

/-- Settles O46: the RX move does not read what the TX move writes, nor the TX move what the RX move writes. -/
theorem halvesCommute : Obligations.HalvesCommute := by
  unfold Obligations.HalvesCommute
  intro i j s hi hj
  have hafter : exec i (s.onTx (txMove j)) = rxOutcome (s.onTx (txMove j)) (rxAct s.config i s.rx) :=
    exec_rxAct (s.onTx (txMove j)) hi
  rw [exec_rxAct s hi, exec_txMove s hj]
  refine ⟨fun t h => ?_, fun v u hv hu => ?_⟩
  · obtain ⟨r, hact, rfl⟩ := rxOutcome_eq_next.mp h
    rw [hact] at hafter
    exact ⟨_, _, exec_txMove _ hj, rfl, hafter⟩
  · cases hv
    rw [hafter] at hu
    obtain ⟨r, hact, rfl⟩ := rxOutcome_eq_next.mp hu
    rw [hact]
    exact ⟨_, rfl, exec_txMove _ hj⟩

/-! ### Host inputs -/

/-- What a host's input decodes to always answers a next state. -/
theorem exec_next_of_hostInput {x : Input} {i : Instr} (hx : hostInput x = true) (hd : decode x = .ok i) (s : State) :
    ∃ t, exec i s = .next t := by
  obtain ⟨hencB0, hencB1, -, -⟩ := encodeOfDecodedWireWord
  cases x with
  | reset => cases hd
  | rxB0 b => exact ⟨_, exec_of_encode_rxB0 s (hencB0 b i hd)⟩
  | rxB1 b => exact ⟨_, exec_of_encode_rxB1 s (hencB1 b i hd)⟩
  | rxCmd code chunk =>
    simp only [decode, decodeRxCmd] at hd
    split at hd <;> cases hd <;> exact ⟨_, rfl⟩
  | txCmd code op len =>
    simp only [decode, decodeTxCmd] at hd
    split at hd <;> cases hd <;> exact ⟨_, rfl⟩
  | txB0 b => cases hx
  | txB1 bytes => cases hx
  | st code chunk => cases hx

/-- A host's input that is no row is the reset or a byte, and leaves the waiting inputs alone. -/
theorem unmatched_next_of_hostInput {x : Input} {e : Reject} (hx : hostInput x = true) (hd : decode x = .error e)
    (s : State) : ∃ t, unmatched x s = .next t ∧ t.stream = s.stream := by
  cases x with
  | reset => exact ⟨_, rfl, rfl⟩
  | rxB0 b => exact ⟨_, rfl, rfl⟩
  | rxB1 b => exact ⟨_, rfl, rfl⟩
  | rxCmd code chunk =>
    simp only [decode, decodeRxCmd] at hd
    split at hd <;> cases hd
  | txCmd code op len =>
    simp only [decode, decodeTxCmd] at hd
    split at hd <;> cases hd
  | txB0 b => cases hx
  | txB1 bytes => cases hx
  | st code chunk => cases hx

/-- Settles O43: the oldest input is answered either way, and the rest go on waiting. -/
theorem hostInputsNeverStop : Obligations.HostInputsNeverStop := by
  unfold Obligations.HostInputsNeverStop
  intro s hhost
  cases hs : s.stream with
  | nil => exact ⟨s, step_idle hs, hhost⟩
  | cons x rest =>
    rw [hs, List.forall_mem_cons] at hhost
    obtain ⟨hx, hrest⟩ := hhost
    cases hd : decode x with
    | ok i =>
      obtain ⟨t, ht⟩ := exec_next_of_hostInput hx hd { s with stream := rest }
      obtain ⟨-, hstream, -, -⟩ := instructionsTouchOneHalf i _ t ht
      exact ⟨t, (step_of_decoded hs hd).trans ht, by rwa [hstream]⟩
    | error e =>
      obtain ⟨t, ht, hstream⟩ := unmatched_next_of_hostInput hx hd { s with stream := rest }
      exact ⟨t, (step_of_undecoded hs hd).trans ht, by rwa [hstream]⟩

/-! ### Every move of the RX half -/

/-- `st` stays, advances by the table with `have` = 0, or is brought back by a restart (R100). -/
theorem st_of_rxMove {c : Config} {r r' : RxHalf} {i : Instr} (h : RxMove c r i r') :
    r'.st = r.st ∨ (r'.haveBytes = 0 ∧ (r.st, r'.st) ∈ advances) ∨
      (restarts i = true ∧ r'.st = .initial ∧ r'.haveBytes = 0) := by
  have header (q : RxHalf) (hh : isHeader q.st = true) : (headerOp c q).st = q.st ∨
      ((headerOp c q).haveBytes = 0 ∧ (q.st, (headerOp c q).st) ∈ advances) := by
    obtain ⟨k, hk, -⟩ | ha := headerOp_cases c hh
    · exact .inl hk.st
    · exact .inr ⟨ha.haveBytes, ha.st⟩
  cases h with
  | refused w => exact .inl rfl
  | channelFailed hf hd hs => exact .inl rfl
  | begunFailed w hf hd hs => exact .inl rfl
  | idle hf hs => exact .inl rfl
  | headerBytes chunk hf hh h1 hn => exact .inl rfl
  | headerField chunk hf hh h1 hn => exact (header (storeChunk chunk r) hh).imp_right .inl
  | operation hf hh hn => exact (header r hh).imp_right .inl
  | payload chunk hu => exact .inl rfl
  | reset => exact .inr (.inr ⟨rfl, rfl, rfl⟩)
  | start hf hs => exact .inr (.inr ⟨rfl, rfl, rfl⟩)
  | next hf hs => exact .inr (.inr ⟨rfl, rfl, rfl⟩)

/-- A move that takes the half to a fault raises it (R186). -/
theorem raised_of_rxMove {c : Config} {r r' : RxHalf} {i : Instr} {k : FaultKind} (h : RxMove c r i r')
    (hf : r.rxFault = none) (hk : r'.rxFault = some k) : Raised k r r' := by
  have header (q : RxHalf) (hq : q.rxFault = none) (hh : isHeader q.st = true)
      (hk : (headerOp c q).rxFault = some k) : Raised k q (headerOp c q) := by
    obtain ⟨k', hk', -⟩ | ha := headerOp_cases c hh
    · cases hk'.rxFault.symm.trans hk
      exact hk'
    · rw [ha.rxFault, hq] at hk
      cases hk
  have quiet {p : Prop} (hk : r.rxFault = some k) : p := by
    rw [hf] at hk
    cases hk
  cases h with
  | refused w => exact quiet hk
  | channelFailed _ hd hs =>
    cases hk
    exact raised_raise _ _ r
  | begunFailed w _ hd hs =>
    cases hk
    exact raised_raise _ _ r
  | idle _ hs => exact quiet hk
  | headerBytes chunk _ hh h1 hn => exact quiet hk
  | headerField chunk _ hh h1 hn => exact raised_of_storeChunk (header (storeChunk chunk r) hf hh hk)
  | operation _ hh hn => exact header r hf hh hk
  | payload chunk hu => exact quiet hk
  | reset => cases hk
  | start _ hs => exact quiet hk
  | next _ hs => exact quiet hk

/-- With a fault recorded the only move but RX_RESET is a refusal (R24, R189). -/
theorem refused_of_rxMove_faulted {c : Config} {r r' : RxHalf} {i : Instr} {k : FaultKind} (h : RxMove c r i r')
    (hk : r.rxFault = some k) (hi : i ≠ .rxReset) : ∃ w, r' = refuse w r := by
  have quiet {p : Prop} (hf : r.rxFault = none) : p := by
    rw [hf] at hk
    cases hk
  cases h with
  | refused w => exact ⟨w, rfl⟩
  | channelFailed hf hd hs => exact quiet hf
  | begunFailed w hf hd hs => exact quiet hf
  | idle hf hs => exact quiet hf
  | headerBytes chunk hf hh h1 hn => exact quiet hf
  | headerField chunk hf hh h1 hn => exact quiet hf
  | operation hf hh hn => exact quiet hf
  | payload chunk hu => exact quiet ((unmasks_iff c chunk r).mp hu).1
  | reset => exact absurd rfl hi
  | start hf hs => exact quiet hf
  | next hf hs => exact quiet hf

/-- A move that answers Refused is a refusal (R190). -/
theorem refused_of_rxMove_resp {c : Config} {r r' : RxHalf} {i : Instr} {w : RefuseReason} (h : RxMove c r i r')
    (hw : r'.resp = some (.refused w)) : r' = refuse w r := by
  cases h with
  | refused w' =>
    cases hw
    rfl
  | channelFailed hf hd hs => cases hw
  | begunFailed w hf hd hs => cases hw
  | idle hf hs => cases hw
  | headerBytes chunk hf hh h1 hn => cases hw
  | headerField chunk hf hh h1 hn => exact absurd hw (headerOp_resp_ne_refused c (r := storeChunk chunk r) hh w)
  | operation hf hh hn => exact absurd hw (headerOp_resp_ne_refused c hh w)
  | payload chunk hu => cases hw
  | reset => cases hw
  | start hf hs => cases hw
  | next hf hs => cases hw

/-- An instruction moves the RX half, or is of the TX half and leaves it. -/
theorem exec_rx {i : Instr} {s t : State} (h : exec i s = .next t) :
    t.rx = s.rx ∨ RxMove s.config s.rx i t.rx := by
  cases hi : isTx i
  · exact .inr (exec_rxMove hi h).2
  · obtain ⟨-, -, hrx, -⟩ := instructionsTouchOneHalf i s t h
    exact .inl (hrx hi)

/-- Settles O47: by what a move makes of `st`. -/
theorem parserNeverMovesBackward : Obligations.ParserNeverMovesBackward := by
  unfold Obligations.ParserNeverMovesBackward
  intro i s t h
  obtain e | hmove := exec_rx h
  · exact .inl (congrArg RxHalf.st e)
  · exact st_of_rxMove hmove

/-- Settles O48: a move to a fault raises it, and each kind writes its own close code. -/
theorem faultEntryWritesTheCloseCode : Obligations.FaultEntryWritesTheCloseCode := by
  unfold Obligations.FaultEntryWritesTheCloseCode
  intro i s t k h hf hk
  obtain e | hmove := exec_rx h
  · rw [e, hf] at hk
    cases hk
  have hr := raised_of_rxMove hmove hf hk
  refine ⟨hr.st, hr.msgTotal, hr.maxread, hr.payIdx, hr.payout, hr.resp, ?_⟩
  cases k with
  | protocol => exact ⟨hr.ccValid, hr.closeCode⟩
  | size => exact ⟨hr.ccValid, hr.closeCode⟩
  | channel => exact ⟨hr.ccValid, hr.closeCode⟩

/-- Settles O49: every other instruction of the half is refused. -/
theorem faultIsStickyUntilReset : Obligations.FaultIsStickyUntilReset := by
  unfold Obligations.FaultIsStickyUntilReset
  intro i s t k hk h hi
  obtain e | hmove := exec_rx h
  · rw [e]
  · obtain ⟨w, e⟩ := refused_of_rxMove_faulted hmove hk hi
    rw [e]
    rfl

/-- Settles O50: an instruction that answers Refused is a refusal, or is of the other half. -/
theorem refusedCommandChangesNothing : Obligations.RefusedCommandChangesNothing := by
  unfold Obligations.RefusedCommandChangesNothing
  intro i s t w h hw
  obtain e | hmove := exec_rx h
  · rw [e]
  · rw [refused_of_rxMove_resp hmove hw]
    rfl

/-! ### What RX_FEED takes -/

/-- RX_CHFAIL takes and gives out nothing. -/
theorem rxChfail_streams (r : RxHalf) : (rxChfail r).rxs = r.rxs ∧ (rxChfail r).payout = r.payout := by
  by_cases hf : r.rxFault = none
  swap
  · rw [rxChfail_faulted hf]
    exact ⟨rfl, rfl⟩
  by_cases hs : r.st = .initial ∨ r.st = .payload
  swap
  · rw [rxChfail_eq_protocol hf hs]
    exact ⟨rfl, rfl⟩
  by_cases hd : frameDone r = true
  · rw [rxChfail_frameComplete hf hd]
    exact ⟨rfl, rfl⟩
  · rw [rxChfail_eq_channel hf hd hs]
    exact ⟨rfl, rfl⟩

/-- A header chunk is taken whole, and nothing is given out. -/
theorem feedHeader_streams (c : Config) (chunk : List Byte) {r : RxHalf} (hh : isHeader r.st = true) :
    (feedHeader c chunk r).rxs = r.rxs ++ chunk ∧ (feedHeader c chunk r).payout = r.payout := by
  obtain ⟨-, e⟩ | ⟨-, e⟩ := feedHeader_cases c chunk r
  · rw [e]
    exact ⟨rfl, rfl⟩
  · rw [e]
    exact headerOp_streams c (r := storeChunk chunk r) hh

/-- Settles O51: by what RX_FEED does with the chunk. -/
theorem neverReadsAhead : Obligations.NeverReadsAhead := by
  unfold Obligations.NeverReadsAhead
  intro s t chunk h
  rw [exec_rxFeed] at h
  cases h
  dsimp only
  obtain ⟨w, e⟩ | ⟨-, -, -, e⟩ | ⟨-, hh, -, hn, e⟩ | ⟨hu, e⟩ := rxFeed_cases s.config chunk s.rx
  · rw [e]
    exact .inl ⟨rfl, rfl⟩
  · rw [e]
    exact .inl (rxChfail_streams s.rx)
  · obtain ⟨hrxs, hpayout⟩ := feedHeader_streams s.config chunk hh
    have hs : s.rx.st ≠ .payload := fun hs => by rw [hs] at hh; cases hh
    have h8 : chunk.length ≤ 8 :=
      Nat.le_trans hn (Nat.le_trans (Nat.sub_le _ _) (needTotal_le s.rx.st))
    rw [e]
    exact .inr ⟨hrxs, .inl ⟨hs, hn, h8, hpayout⟩⟩
  · obtain ⟨-, hs, -, hle, -⟩ := (unmasks_iff_chunk_fits _ _ _).mp hu
    obtain ⟨-, -, -, hrem, -⟩ := (unmasks_iff _ _ _).mp hu
    have hidx := umXor_payIdx_toNat hle
    rw [e]
    refine .inr ⟨rfl, .inr ⟨hs, hrem, ?_, ?_⟩⟩
    · rw [payRem, payRem, umXor_st, if_pos hs, if_pos hs, hidx]
      show s.rx.maxread.toNat - _ + _ = _
      omega
    · show (s.rx.payout ++ xorFrom _ _ chunk).length = _
      rw [List.length_append, xorFrom_length]

/-- Settles O52: both resets clear what the reset input clears, and RX_START is accepted after it. -/
theorem resetEqualsBothResets : Obligations.ResetEqualsBothResets := by
  unfold Obligations.ResetEqualsBothResets
  intro s t u ht hu
  cases ht
  cases hu
  refine ⟨rfl, rfl, congrArg Host.Outcome.next ?_⟩
  have accepted := startWith_accepted (f := fun q => clearTotal (clearFrame q)) (r := (hardReset s).rx) rfl (.inl rfl)
  rw [State.onRx, rxStart, accepted]
  rfl

end Sys2Proof.Proofs
end

section
/-! Laws of the unmasker and of the reassembler (41_rx_unmasker.md section 2, 43_host_interface.md sections 4, 5); then the
obligations about them. -/

namespace Sys2Proof.Proofs

open Sys2Proof.Machine Sys2Proof.Stated

/-- Unmasking is its own inverse (R126). -/
theorem xorFrom_xorFrom (key : Vector Byte 4) (bytes : List Byte) :
    ∀ i, xorFrom key i (xorFrom key i bytes) = bytes := by
  induction bytes with
  | nil => intro i; rfl
  | cons b bs ih => intro i; simp [xorFrom, ih]

/-- Settles O53: the output has the chunk's length, so it is accepted, and unmasking is its own inverse. -/
theorem unmaskingIsAnInvolution : Obligations.UnmaskingIsAnInvolution := by
  unfold Obligations.UnmaskingIsAnInvolution
  intro s chunk hf hs h1 hle hc
  have accepted {bytes : List Byte} (hl : bytes.length = chunk.length) :
      exec (.umXor bytes) s = .next (s.onRx (umXor bytes)) := by
    rw [← hl] at h1 hle hc
    exact exec_umXor_eq_next.mpr ⟨unmasks_of_chunk_fits hf hs h1 hle hc, rfl⟩
  have hlen := xorFrom_length s.rx.key chunk s.rx.payIdx.toNat
  refine ⟨_, _, _, _, accepted rfl, rfl, accepted hlen, ?_⟩
  show some (Response.payloadData (xorFrom _ _ (xorFrom _ _ chunk)) (_ - (_ + (xorFrom _ _ chunk).length))) = _
  rw [xorFrom_xorFrom, hlen]

/-- The whole-buffer loop replaces the payload by its unmasking and leaves the rest of the buffer (R121). -/
theorem unmaskBuffer_eq (key : Vector Byte 4) (base : Nat) (buf : List Byte) :
    ∀ n, base + n ≤ buf.length →
      unmaskBuffer key base n buf = buf.take base ++ xorFrom key 0 ((buf.drop base).take n) ++ buf.drop (base + n) := by
  intro n
  induction n with
  | zero => intro _; simp [unmaskBuffer, xorFrom]
  | succ n ih =>
    intro hle
    have hlt : base + n < buf.length := by omega
    have hfront : (buf.take base ++ xorFrom key 0 ((buf.drop base).take n)).length = base + n := by
      simp only [List.length_append, xorFrom_length, List.length_take, List.length_drop]
      omega
    have htake : (buf.drop base).take (n + 1) = (buf.drop base).take n ++ [buf[base + n]] := by
      rw [List.take_succ_eq_append_getElem (by simp; omega), List.getElem_drop]
    have hlen : ((buf.drop base).take n).length = n := by simp; omega
    rw [unmaskBuffer, ih (by omega), List.drop_eq_getElem_cons hlt, List.set_append_right _ _ (by omega), hfront,
      Nat.sub_self, List.set_cons_zero, List.getD_append_right _ _ _ _ (by omega), hfront, Nat.sub_self,
      List.getD_cons_zero, htake, xorFrom_append, hlen]
    simp [xorFrom, Nat.add_assoc]

/-- Settles O54: the loop unmasks from index 0, as UM.XOR does, and so does every cutting. -/
theorem wholeBufferFormAgrees : Obligations.WholeBufferFormAgrees := by
  unfold Obligations.WholeBufferFormAgrees
  intro s buf base len hbuf h1 hf hs hidx hle
  have hlen : ((buf.drop base).take len).length = len := by simp; omega
  have hidx0 : s.rx.payIdx.toNat = 0 := by rw [hidx]; rfl
  have hloop := unmaskBuffer_eq s.rx.key base buf len hbuf
  refine ⟨fun hc => ?_, fun chunks hcut hallowed => ?_⟩
  · have hu := unmasks_of_chunk_fits (chunk := (buf.drop base).take len) hf hs (by omega) (by omega) (by rwa [hlen])
    refine ⟨_, _, _, exec_umXor_eq_next.mpr ⟨hu, rfl⟩, rfl, ?_⟩
    rw [hloop, hidx0]
  · obtain ⟨hpayout, -, -, -⟩ := feedChunks_payload hf hs hallowed (by rw [hcut, hlen, hidx0]; omega)
    refine ⟨_, _, feedInTurn_eq chunks s, hpayout, ?_⟩
    rw [hloop, hcut, hidx0]

/-- Settles O58: the two equations of `closeCodeOf`. -/
theorem closeCodeReadsTwoBytes : Obligations.CloseCodeReadsTwoBytes := by
  unfold Obligations.CloseCodeReadsTwoBytes
  refine ⟨fun payload hlt => ?_, fun b0 b1 rest => be16_toNat b0 b1⟩
  match payload, hlt with
  | [], _ => rfl
  | [_], _ => rfl

/-- Continuation fragments append to the message in progress, which the one with FIN completes (R161, R163). -/
theorem assembleAll_continuations (last : List Byte) (middle : List (List Byte)) :
    ∀ m : Message, assembleAll (some m) ((middle.map fun p => (0x0#4, false, p)) ++ [(0x0#4, true, last)])
      = .complete ⟨m.opcode, m.payload ++ middle.flatten ++ last⟩ := by
  induction middle with
  | nil => intro m; simp [assembleAll, assemble, opCont]
  | cons p ps ih =>
    intro m
    have hrest : (ps.map fun p => (0x0#4, false, p)) ++ [(0x0#4, true, last)] ≠ [] := by simp
    rw [List.map_cons, List.cons_append, assembleAll]
    · simp only [assemble, opCont, Bool.false_eq_true, if_false, ih]
      simp
    · exact hrest

/-- Settles O59: the first fragment begins the message, and the others continue it. -/
theorem fragmentsConcatenate : Obligations.FragmentsConcatenate := by
  unfold Obligations.FragmentsConcatenate
  intro op first last middle hop
  have hrest : (middle.map fun p => (0x0#4, false, p)) ++ [(0x0#4, true, last)] ≠ [] := by simp
  have hfirst : assemble none op false first = .more ⟨op, first⟩ := by
    obtain rfl | rfl := hop <;> rfl
  rw [List.cons_append, assembleAll]
  · simp only [hfirst, assembleAll_continuations]
  · exact hrest

end Sys2Proof.Proofs
end

section
/-! A whole masked header (30_encoding.md sections 1, 2, 40_rx_header_parser.md section 2): each of its fields in one chunk, the
fields one after another, and the same bytes one by one; then the obligation about the round trip. -/

namespace Sys2Proof.Proofs

open Sys2Proof.Machine Sys2Proof.Stated

/-! ### The fields after byte 1 -/

/-- A whole field taken into an empty byte count is performed on those bytes (R91). -/
theorem rxFeed_field {c : Config} {q : ParseState} {field : List Byte} {r : RxHalf} (hf : r.rxFault = none)
    (hs : r.st = q) (hh : isHeader q = true) (hb : r.haveBytes = 0) (h0 : field ≠ [])
    (hlen : field.length = needTotal q) :
    rxFeed c field r = headerOp c (storeChunk field r) ∧ (storeChunk field r).scratch = memWrite r.scratch 0 field := by
  subst hs
  refine ⟨rxFeed_complete hf hh h0 (by simp [hb, hlen]), ?_⟩
  rw [storeChunk_scratch, hb]
  rfl

/-- The two extension bytes of a length are read back (R70, R95). -/
theorem rxFeed_ext16 (c : Config) (x : BitVec 16) {r : RxHalf} (hf : r.rxFault = none) (hs : r.st = .extendedLength16)
    (hb : r.haveBytes = 0) :
    rxFeed c (ext16Bytes x) r =
      (({ storeChunk (ext16Bytes x) r with declaredLength := x.setWidth 64 }).goTo .mask).respond (.needMore 4) := by
  obtain ⟨e, hscratch⟩ := rxFeed_field (c := c) hf hs rfl hb (field := ext16Bytes x) (by simp [ext16Bytes]) rfl
  have hx : be16 (storeChunk (ext16Bytes x) r).scratch[0] (storeChunk (ext16Bytes x) r).scratch[1] = x := by
    simp only [hscratch, memWrite_zero_getElem]
    exact be16_slices x
  rw [e, headerOp]
  simp only [storeChunk_st, hs, hpExt16, hx]

/-- The eight extension bytes of a length below 2^63 are read back (R70, R96). -/
theorem rxFeed_ext64 (c : Config) {x : BitVec 64} (hx : x.toNat < 2 ^ 63) {r : RxHalf} (hf : r.rxFault = none)
    (hs : r.st = .extendedLength64) (hb : r.haveBytes = 0) :
    rxFeed c (ext64Bytes x) r =
      (({ storeChunk (ext64Bytes x) r with declaredLength := x }).goTo .mask).respond (.needMore 4) := by
  obtain ⟨e, hscratch⟩ := rxFeed_field (c := c) hf hs rfl hb (field := ext64Bytes x) (by simp [ext64Bytes]) rfl
  have hbe : be64 (storeChunk (ext64Bytes x) r).scratch = x := by
    refine Eq.trans (congrArg be64 ?_) (be64_slices x)
    rw [hscratch]
    refine Vector.ext fun i hi => ?_
    rw [memWrite_zero_getElem]
    interval_cases i <;> rfl
  rw [e, headerOp]
  simp only [storeChunk_st, hs]
  obtain ⟨h, -⟩ | ⟨-, e'⟩ := hpExt64_cases (storeChunk (ext64Bytes x) r)
  · rw [be64_getLsbD_63, hbe, decide_eq_true_eq] at h
    omega
  · rw [e', hbe]
    rfl

/-- The four key bytes are the key, and a length within the ceiling begins the payload (R97, R98). -/
theorem rxFeed_key (c : Config) (key : Vector Byte 4) {r : RxHalf} (hf : r.rxFault = none) (hs : r.st = .mask)
    (hb : r.haveBytes = 0) (hm : r.msgTotal.toNat + r.declaredLength.toNat ≤ c.maxPayload.toNat) :
    rxFeed c key.toList r =
      (({ storeChunk key.toList r with
          key := key
          msgTotal := BitVec.ofNat 64 (r.msgTotal.toNat + r.declaredLength.toNat)
          maxread := r.declaredLength
          payIdx := 0 }).goTo .payload).respond (.headerDone r.declaredLength) := by
  have h0 : key.toList ≠ [] := List.ne_nil_of_length_pos (by simp)
  obtain ⟨e, hscratch⟩ := rxFeed_field (c := c) hf hs rfl hb h0 (by simp [needTotal])
  have hkey : #v[(storeChunk key.toList r).scratch[0], (storeChunk key.toList r).scratch[1],
      (storeChunk key.toList r).scratch[2], (storeChunk key.toList r).scratch[3]] = key := by
    simp only [hscratch, memWrite_zero_getElem]
    refine Vector.ext fun i hi => ?_
    interval_cases i <;> simp
  rw [e, headerOp]
  simp only [storeChunk_st, hs]
  obtain ⟨h, -⟩ | ⟨-, e'⟩ := hpMask_cases c (storeChunk key.toList r)
  · exact absurd ((overCeiling_iff _ _).mp h) (Nat.not_lt.mpr hm)
  · rw [e', hkey]
    rfl

/-! ### One field after another -/

/-- `r'` is `r` after header bytes that are whole fields, each answered NeedMore. -/
inductive FedFields (c : Config) : List Byte → RxHalf → RxHalf → Prop
  | done (r : RxHalf) : FedFields c [] r r
  | field {field rest : List Byte} {r r' : RxHalf} (hf : r.rxFault = none) (hh : isHeader r.st = true) (h0 : field ≠ [])
      (hb : r.haveBytes.toNat + field.length = needTotal r.st) (hh' : isHeader (rxFeed c field r).st = true)
      (hresp : ∃ n, (rxFeed c field r).resp = some (.needMore n)) (hrest : FedFields c rest (rxFeed c field r) r') :
      FedFields c (field ++ rest) r r'

/-- One more field in front, with what RX_FEED makes of it written out. -/
theorem fedFields_cons {c : Config} {field rest : List Byte} {r q r' : RxHalf} {n : Nat} (e : rxFeed c field r = q)
    (hf : r.rxFault = none) (hh : isHeader r.st = true) (h0 : field ≠ [])
    (hb : r.haveBytes.toNat + field.length = needTotal r.st) (hh' : isHeader q.st = true)
    (hresp : q.resp = some (.needMore n)) (hrest : FedFields c rest q r') : FedFields c (field ++ rest) r r' := by
  subst e
  exact .field hf hh h0 hb hh' ⟨n, hresp⟩ hrest

/-- Byte 1 and the extension bytes of a masked header in the shortest form (R68). -/
def lengthForm (n : Nat) : List Byte :=
  if n ≤ 125 then [mkB1 true (BitVec.ofNat 7 n)]
  else if n ≤ 65535 then mkB1 true 126 :: ext16Bytes (BitVec.ofNat 16 n)
  else mkB1 true 127 :: ext64Bytes (BitVec.ofNat 64 n)

/-- A masked header is byte 0 and then the length form. -/
theorem headerBytes_eq_lengthForm (fin : Bool) (op : BitVec 4) (n : Nat) :
    headerBytes fin op true n = [mkB0 fin op] ++ lengthForm n := rfl

/-- `r'` is `r` with the length `n` read and the key to come. -/
structure KeyAwaited (n : Nat) (r r' : RxHalf) : Prop where
  st : r'.st = .mask
  haveBytes : r'.haveBytes = 0
  declaredLength : r'.declaredLength = BitVec.ofNat 64 n
  rxFault : r'.rxFault = r.rxFault
  fin : r'.fin = r.fin
  opcode : r'.opcode = r.opcode
  msgTotal : r'.msgTotal = r.msgTotal
  payout : r'.payout = r.payout

/-- In `ExtendedLength16` the two bytes of a length are read (R95). -/
theorem fedFields_ext16 (c : Config) (x : BitVec 16) {r : RxHalf} (hf : r.rxFault = none) (hs : r.st = .extendedLength16)
    (hb : r.haveBytes = 0) : ∃ r', FedFields c (ext16Bytes x) r r' ∧ KeyAwaited x.toNat r r' :=
  ⟨_, fedFields_cons (rxFeed_ext16 c x hf hs hb) hf (by rw [hs]; rfl) (by simp [ext16Bytes]) (by rw [hb, hs]; rfl) rfl rfl
    (.done _), ⟨rfl, rfl, (BitVec.ofNat_toNat 64 x).symm, rfl, rfl, rfl, rfl, rfl⟩⟩

/-- In `ExtendedLength64` the eight bytes of a length below 2^63 are read (R96). -/
theorem fedFields_ext64 (c : Config) {x : BitVec 64} (hx : x.toNat < 2 ^ 63) {r : RxHalf} (hf : r.rxFault = none)
    (hs : r.st = .extendedLength64) (hb : r.haveBytes = 0) :
    ∃ r', FedFields c (ext64Bytes x) r r' ∧ KeyAwaited x.toNat r r' :=
  ⟨_, fedFields_cons (rxFeed_ext64 c hx hf hs hb) hf (by rw [hs]; rfl) (by simp [ext64Bytes]) (by rw [hb, hs]; rfl) rfl rfl
    (.done _), ⟨rfl, rfl, by rw [BitVec.ofNat_toNat, BitVec.setWidth_eq]; rfl, rfl, rfl, rfl, rfl, rfl⟩⟩

/-- In `Length` a length below 2^63 in its shortest form is read (R94 to R96). -/
theorem fedFields_lengthForm (c : Config) {n : Nat} {r : RxHalf} (hn : n < 2 ^ 63) (hf : r.rxFault = none)
    (hs : r.st = .length) (hb : r.haveBytes = 0) :
    ∃ r', FedFields c (lengthForm n) r r' ∧ KeyAwaited n r r' := by
  have hh : isHeader r.st = true := by rw [hs]; rfl
  have h1 : r.haveBytes.toNat + 1 = needTotal r.st := by rw [hb, hs]; rfl
  unfold lengthForm
  split_ifs with h125 h65535
  · have hl : (BitVec.ofNat 7 n).toNat = n := by rw [BitVec.toNat_ofNat]; omega
    have hlen : (BitVec.ofNat 7 n).setWidth 64 = BitVec.ofNat 64 n := by rw [← BitVec.ofNat_toNat, hl]
    exact ⟨_, fedFields_cons (rxFeed_directLength c (by omega) hf hs hb) hf hh (by simp) h1 rfl rfl (.done _),
      ⟨rfl, rfl, hlen, rfl, rfl, rfl, rfl, rfl⟩⟩
  · have hl : (BitVec.ofNat 16 n).toNat = n := by rw [BitVec.toNat_ofNat]; omega
    have e := rxFeed_lengthSelector16 c hf hs hb
    obtain ⟨q, hfed, hq⟩ := fedFields_ext16 c (BitVec.ofNat 16 n) (r := rxFeed c [0xFE] r) (by rw [e]; exact hf) (by rw [e])
      (by rw [e])
    rw [hl, e] at hq
    exact ⟨q, fedFields_cons e hf hh (by simp) h1 rfl rfl (e ▸ hfed),
      ⟨hq.st, hq.haveBytes, hq.declaredLength, hq.rxFault, hq.fin, hq.opcode, hq.msgTotal, hq.payout⟩⟩
  · have hl : (BitVec.ofNat 64 n).toNat = n := by rw [BitVec.toNat_ofNat]; omega
    have e := rxFeed_lengthSelector64 c hf hs hb
    obtain ⟨q, hfed, hq⟩ := fedFields_ext64 c (x := BitVec.ofNat 64 n) (by rwa [hl]) (r := rxFeed c [0xFF] r)
      (by rw [e]; exact hf) (by rw [e]) (by rw [e])
    rw [hl, e] at hq
    exact ⟨q, fedFields_cons e hf hh (by simp) h1 rfl rfl (e ▸ hfed),
      ⟨hq.st, hq.haveBytes, hq.declaredLength, hq.rxFault, hq.fin, hq.opcode, hq.msgTotal, hq.payout⟩⟩

/-- What a header has left where its payload begins (R97). -/
structure PayloadBegun (fin : Bool) (op : BitVec 4) (n : Nat) (key : Vector Byte 4) (r t : RxHalf) : Prop where
  st : t.st = .payload
  rxFault : t.rxFault = none
  fin : t.fin = fin
  opcode : t.opcode = op
  key : t.key = key
  declaredLength : t.declaredLength.toNat = n
  maxread : t.maxread = t.declaredLength
  payIdx : t.payIdx = 0
  resp : t.resp = some (.headerDone t.declaredLength)
  payout : t.payout = r.payout

/-- A masked header in the shortest form, fed at a frame boundary with room under the ceiling: its fields up to the key, and
then the key, with which the payload begins (R93 to R98). -/
theorem fedFields_headerBytes (c : Config) (fin : Bool) {op : BitVec 4} {n : Nat} (key : Vector Byte 4) {r : RxHalf}
    (hv : validOpcode op = true) (hn : n < 2 ^ 63) (hf : r.rxFault = none) (hs : r.st = .initial) (hb : r.haveBytes = 0)
    (hm : r.msgTotal.toNat + n ≤ c.maxPayload.toNat) :
    ∃ q, FedFields c (headerBytes fin op true n) r q ∧ q.rxFault = none ∧ q.st = .mask ∧ q.haveBytes = 0 ∧
      PayloadBegun fin op n key r (rxFeed c key.toList q) := by
  have hh : isHeader r.st = true := by rw [hs]; rfl
  have h1 : r.haveBytes.toNat + 1 = needTotal r.st := by rw [hb, hs]; rfl
  have e := rxFeed_byteZero c fin hv hf hs hb
  have hf' : (rxFeed c [mkB0 fin op] r).rxFault = none := by rw [e]; exact hf
  obtain ⟨q, hfed, hq⟩ := fedFields_lengthForm c hn hf' (by rw [e]) (by rw [e])
  rw [e] at hfed hq
  have hl : q.declaredLength.toNat = n := by rw [hq.declaredLength, BitVec.toNat_ofNat]; omega
  have hqf : q.rxFault = none := hq.rxFault.trans hf
  have ekey := rxFeed_key c key hqf hq.st hq.haveBytes (by rw [hq.msgTotal, hl]; exact hm)
  have hall := fedFields_cons e hf hh (by simp) h1 rfl rfl hfed
  rw [← headerBytes_eq_lengthForm] at hall
  refine ⟨q, hall, hqf, hq.st, hq.haveBytes, ?_⟩
  rw [ekey]
  exact ⟨rfl, hqf, hq.fin, hq.opcode, rfl, hl, rfl, rfl, rfl, hq.payout⟩

/-! ### Byte by byte -/

/-- The first of two or more bytes of a field is stored, and the others then do what the bytes joined do. -/
theorem rxFeed_first_byte {c : Config} {b : Byte} {bs : List Byte} {r : RxHalf} (hf : r.rxFault = none)
    (hh : isHeader r.st = true) (hbs : bs ≠ []) (hle : r.haveBytes.toNat + (b :: bs).length ≤ needTotal r.st) :
    rxFeed c [b] r = (storeChunk [b] r).respond (.needMore (needTotal r.st - (r.haveBytes.toNat + 1))) ∧
      (rxFeed c [b] r).haveBytes.toNat + bs.length ≤ needTotal (rxFeed c [b] r).st ∧
      rxFeed c bs (rxFeed c [b] r) = rxFeed c (b :: bs) r := by
  have hpos := List.length_pos_of_ne_nil hbs
  rw [List.length_cons] at hle
  have e := rxFeed_incomplete (c := c) (chunk := [b]) hf hh (by simp) (by simp; omega)
  have hv : (storeChunk [b] r).haveBytes.toNat = r.haveBytes.toNat + 1 :=
    storeChunk_have (by simp) (by rw [need]; simp; omega)
  refine ⟨e, ?_, rxFeed_header_append (a := [b]) hf hh (by simp) hbs (by simp; omega)⟩
  rw [e, RxHalf.respond_haveBytes, hv]
  show _ ≤ needTotal r.st
  omega

/-- Header bytes of one field, one by one, are the field's chunk. -/
theorem feedChunks_singles {c : Config} {bytes : List Byte} :
    ∀ {r : RxHalf}, r.rxFault = none → isHeader r.st = true → bytes ≠ [] →
      r.haveBytes.toNat + bytes.length ≤ needTotal r.st →
      feedChunks c (bytes.map fun b => [b]) r = rxFeed c bytes r := by
  induction bytes with
  | nil => intro r _ _ h0; exact absurd rfl h0
  | cons b bs ih =>
    intro r hf hh _ hle
    obtain rfl | hbs := eq_or_ne bs []
    · rfl
    obtain ⟨e, hle', hjoin⟩ := rxFeed_first_byte (c := c) hf hh hbs hle
    rw [List.map_cons, feedChunks, ih (by rw [e]; exact hf) (by rw [e]; exact hh) hbs hle', hjoin]

/-- So are whole fields one after another. -/
theorem feedChunks_of_fedFields {c : Config} {bytes : List Byte} {r r' : RxHalf} (h : FedFields c bytes r r') :
    feedChunks c (bytes.map fun b => [b]) r = r' := by
  induction h with
  | done r => rfl
  | field hf hh h0 hb hh' hresp hrest ih =>
    rw [List.map_append, feedChunks_append, feedChunks_singles hf hh h0 (Nat.le_of_eq hb), ih]

/-- The masking stage makes the emitted header the masked one (R218). -/
theorem maskHeader_emitted (op : BitVec 4) (len : BitVec 64) (key : Vector Byte 4) :
    maskHeader key (emitted op len) = headerBytes true op true len.toNat ++ key.toList := by
  have hmask (l : BitVec 7) : mkB1 false l ||| 0x80#8 = mkB1 true l := by revert l; decide
  rw [emitted_eq_headerBytes]
  unfold headerBytes
  split_ifs
  · simp only [maskHeader, hmask, List.nil_append, List.cons_append]
  · simp only [maskHeader, hmask, List.cons_append]
  · simp only [maskHeader, hmask, List.cons_append]

/-- A masked header and its key, byte by byte, begin the payload. -/
theorem feedChunks_header {c : Config} {bytes : List Byte} {key : Vector Byte 4} {r q : RxHalf}
    (h : FedFields c bytes r q) (hf : q.rxFault = none) (hs : q.st = .mask) (hb : q.haveBytes = 0) :
    feedChunks c ((bytes ++ key.toList).map fun b => [b]) r = rxFeed c key.toList q := by
  rw [List.map_append, feedChunks_append, feedChunks_of_fedFields h,
    feedChunks_singles hf (by rw [hs]; rfl) (List.ne_nil_of_length_pos (by simp)) (by rw [hs, hb]; simp [needTotal])]

/-- Settles O55: the header begins the payload with opcode, length and key; the payload comes out unmasked, in every cutting. -/
theorem maskedRoundTrip : Obligations.MaskedRoundTrip := by
  unfold Obligations.MaskedRoundTrip
  intro s w op payload key hop hlen hf hs hb hm
  have hv := (mem_opcodes_iff op).mp hop
  have hn : (BitVec.ofNat 64 payload.length).toNat = payload.length := Nat.mod_eq_of_lt (by omega)
  obtain ⟨q, hfed, hqf, hqs, hqb, hbegun⟩ := fedFields_headerBytes s.config true key hv hlen hf hs hb hm
  have hfeed : feedChunks s.config ((maskHeader key (emitted op (BitVec.ofNat 64 payload.length))).map fun b => [b]) s.rx
      = rxFeed s.config key.toList q := by
    rw [maskHeader_emitted, hn, feedChunks_header hfed hqf hqs hqb]
  have hresp : (txWrite op (BitVec.ofNat 64 payload.length) w.tx).resp
      = some (.header (emitted op (BitVec.ofNat 64 payload.length))) := by
    rw [txWrite_of_valid hv]
  refine ⟨_, emitted op (BitVec.ofNat 64 payload.length), { s with rx := rxFeed s.config key.toList q },
    exec_txWrite op _ w, hresp, by rw [feedInTurn_eq, hfeed], hbegun.st, hbegun.fin, hbegun.opcode, hbegun.rxFault, hbegun.key,
    hbegun.declaredLength, hbegun.resp, fun h0 => ?empty, fun chunks hcut hallowed => ?cut, fun h0 hc => ?whole⟩
  all_goals
    generalize rxFeed s.config key.toList q = t at hbegun ⊢
    have hidx : t.payIdx.toNat = 0 := by rw [hbegun.payIdx]; rfl
    have hmax : t.maxread.toNat = payload.length := by rw [hbegun.maxread, hbegun.declaredLength]
  case empty =>
    rw [h0] at hmax
    exact (frameDone_iff t).mpr ⟨hbegun.st, BitVec.eq_of_toNat_eq (hidx.trans hmax.symm)⟩
  case cut =>
    have hsum : chunks.flatten.length = payload.length := by rw [hcut, xorFrom_length]
    obtain ⟨hpayout, hend, hmax', hst⟩ := feedChunks_payload (c := s.config) hbegun.rxFault hbegun.st hallowed (by omega)
    refine ⟨_, feedInTurn_eq chunks _, ?_, ?_⟩
    · rw [hpayout, hcut, hbegun.key, hidx, xorFrom_xorFrom]
    · refine (frameDone_iff _).mpr ⟨hst, BitVec.eq_of_toNat_eq ?_⟩
      rw [hend, hmax', hidx, hsum, hmax, Nat.zero_add]
  case whole =>
    have hsum := xorFrom_length key payload 0
    have e := rxFeed_eq_afterPayload (c := s.config) (chunk := xorFrom key 0 payload) hbegun.rxFault hbegun.st
      (List.ne_nil_of_length_pos (by rw [hsum]; exact List.length_pos_of_ne_nil h0)) (by rwa [hsum]) (by omega)
    refine ⟨_, exec_rxFeed_of_eq (s := { s with rx := t }) e, ?_⟩
    show some (Response.payloadData _ (t.maxread.toNat - (t.payIdx.toNat + (xorFrom key 0 payload).length))) = _
    rw [hbegun.key, hidx, xorFrom_xorFrom, hsum, hmax, Nat.zero_add, Nat.sub_self]

end Sys2Proof.Proofs
end

section
/-! `read` of one whole frame (43_host_interface.md section 5): a pass whose wait is met feeds its bytes, header fields keep the
loop going, and the last byte of the payload ends it; then the obligation about `read`. -/

namespace Sys2Proof.Proofs

open Sys2Proof.Machine Sys2Proof.Stated

/-- A pass that meets `chunk` after `delay` milliseconds. -/
def meets (delay : Nat) (chunk : List Byte) : Pass := ⟨some delay, .bytes chunk⟩

/-- The rest of the loop after a pass. -/
def resume (c : Config) (timeout : Nat) (ps : List Pass) : ReadResult → ReadResult
  | .inProgress rd => readLoop c timeout false ps rd
  | .noFrame rd => .noFrame rd
  | .message m rx => .message m rx
  | .failure kind rx => .failure kind rx
  | .stuck rx => .stuck rx

/-- The loop is its first pass and then the rest. -/
theorem readLoop_cons (c : Config) (timeout : Nat) (skipWait : Bool) (p : Pass) (ps : List Pass) (rd : Reader) :
    readLoop c timeout skipWait (p :: ps) rd = resume c timeout ps (readPass c timeout skipWait p rd) := by
  rw [readLoop]
  cases readPass c timeout skipWait p rd <;> rfl

/-- Bytes read are fed to the block. -/
theorem afterRead_bytes (c : Config) {chunk : List Byte} (h0 : chunk ≠ []) (rd : Reader) :
    afterRead c (.bytes chunk) rd = afterCommand { rd with rx := rxFeed c chunk rd.rx } := by
  rw [afterRead, if_neg (by simpa using h0)]

/-- NeedMore in a header state keeps the loop going. -/
theorem afterCommand_needMore {rd : Reader} {n : Nat} (hr : rd.rx.resp = some (.needMore n))
    (hh : isHeader rd.rx.st = true) : afterCommand rd = .inProgress rd := by
  simp only [afterCommand, hr, settle, frameDone_of_header hh, Bool.false_eq_true, if_false]

/-- HeaderDone goes to the head of the loop. -/
theorem afterCommand_headerDone {rd : Reader} {l : BitVec 64} (hr : rd.rx.resp = some (.headerDone l)) :
    afterCommand rd = settle rd := by
  simp only [afterCommand, hr]

/-- PayloadData is appended, and goes to the head of the loop. -/
theorem afterCommand_payloadData {rd : Reader} {out : List Byte} {rem : Nat}
    (hr : rd.rx.resp = some (.payloadData out rem)) : afterCommand rd = settle { rd with part := rd.part ++ out } := by
  simp only [afterCommand, hr]

/-- The head of the loop goes on in the middle of a frame. -/
theorem settle_unfinished {rd : Reader} (hd : ¬frameDone rd.rx = true) : settle rd = .inProgress rd := if_neg hd

/-- An unfragmented frame that is complete is the message (R161, R163). -/
theorem settle_unfragmented {rd : Reader} (hd : frameDone rd.rx = true) (hp : rd.pending = none) (hfin : rd.rx.fin = true)
    (hop : rd.rx.opcode ≠ opCont) : settle rd = .message ⟨rd.rx.opcode, rd.part⟩ rd.rx := by
  have hm : assemble none rd.rx.opcode true rd.part = .complete ⟨rd.rx.opcode, rd.part⟩ := by
    cases hc : controlOpcode rd.rx.opcode <;> simp [assemble, hc, hop]
  rw [settle, if_pos hd, hp, hfin, hm]

section InTime

variable {c : Config} {timeout delay : Nat} (ht : delay ≤ timeout) (hi : delay ≤ c.inProgressMs)
include ht hi

/-- A wait met within both bounds does not expire. -/
theorem waitExpires_of_meets (chunk : List Byte) (rd : Reader) :
    waitExpires (waitBound c timeout rd) (meets delay chunk) = false := by
  refine waitExpires_in_time _ ?_
  rw [waitBound]
  split_ifs
  · exact ht
  · exact hi

/-- A pass met in time feeds its bytes. -/
theorem readLoop_meets {chunk : List Byte} (h0 : chunk ≠ []) (ps : List Pass) (rd : Reader) :
    readLoop c timeout false (meets delay chunk :: ps) rd
      = resume c timeout ps (afterCommand { rd with rx := rxFeed c chunk rd.rx }) := by
  rw [readLoop_cons, readPass_in_time (waitExpires_of_meets ht hi chunk rd), meets, afterRead_bytes c h0]

/-- The first pass does too if it does not wait, or if its own wait is met in time. -/
theorem readLoop_first {ready : Bool} {firstDelay : Option Nat} (h : ready = true ∨ firstDelay = some delay)
    (chunk : List Byte) (ps : List Pass) (rd : Reader) :
    readLoop c timeout ready (⟨firstDelay, .bytes chunk⟩ :: ps) rd
      = readLoop c timeout false (meets delay chunk :: ps) rd := by
  rw [readLoop_cons, readLoop_cons, readPass_in_time (waitExpires_of_meets ht hi chunk rd)]
  obtain rfl | rfl := h
  · rw [readPass_skip]
    rfl
  · exact congrArg (resume c timeout ps) (readPass_in_time (p := meets delay chunk) (waitExpires_of_meets ht hi chunk rd))

/-- Header bytes of one field, one per pass, do what the field's chunk does. -/
theorem readLoop_field {bytes : List Byte} (ps : List Pass) :
    ∀ {r : RxHalf}, r.rxFault = none → isHeader r.st = true → bytes ≠ [] →
      r.haveBytes.toNat + bytes.length ≤ needTotal r.st →
      readLoop c timeout false ((bytes.map fun b => meets delay [b]) ++ ps) ⟨r, none, []⟩
        = resume c timeout ps (afterCommand ⟨rxFeed c bytes r, none, []⟩) := by
  induction bytes with
  | nil => intro r _ _ h0; exact absurd rfl h0
  | cons b bs ih =>
    intro r hf hh _ hle
    rw [List.map_cons, List.cons_append, readLoop_meets ht hi (by simp)]
    obtain rfl | hbs := eq_or_ne bs []
    · rfl
    obtain ⟨e, hle', hjoin⟩ := rxFeed_first_byte (c := c) hf hh hbs hle
    have hh' : isHeader (rxFeed c [b] r).st = true := by rw [e]; exact hh
    rw [afterCommand_needMore (congrArg RxHalf.resp e) hh', resume, ih (by rw [e]; exact hf) hh' hbs hle', hjoin]

/-- Whole fields, each answered NeedMore, keep the loop going. -/
theorem readLoop_of_fedFields {bytes : List Byte} {r r' : RxHalf} (h : FedFields c bytes r r') (ps : List Pass) :
    readLoop c timeout false ((bytes.map fun b => meets delay [b]) ++ ps) ⟨r, none, []⟩
      = readLoop c timeout false ps ⟨r', none, []⟩ := by
  induction h with
  | done r => rfl
  | field hf hh h0 hb hh' hresp hrest ih =>
    obtain ⟨n, hresp⟩ := hresp
    rw [List.map_append, List.append_assoc, readLoop_field ht hi _ hf hh h0 (Nat.le_of_eq hb),
      afterCommand_needMore hresp hh', resume, ih]

/-- The payload of an unfragmented frame, in any cutting, ends the read with the message. -/
theorem readLoop_payload {chunks : List (List Byte)} :
    ∀ {r : RxHalf} {part : List Byte}, chunks ≠ [] → r.rxFault = none → r.st = .payload → r.fin = true →
      r.opcode ≠ opCont → allowedCut c chunks → r.payIdx.toNat + chunks.flatten.length = r.maxread.toNat →
      ∃ r', readLoop c timeout false (chunks.map (meets delay)) ⟨r, none, part⟩
        = .message ⟨r.opcode, part ++ xorFrom r.key r.payIdx.toNat chunks.flatten⟩ r' := by
  induction chunks with
  | nil => intro r part h0; exact absurd rfl h0
  | cons ch chs ih =>
    intro r part _ hf hs hfin hop hcut hsum
    obtain ⟨h0, hc⟩ := hcut ch (by simp)
    rw [List.flatten_cons, List.length_append] at hsum
    have hle : r.payIdx.toNat + ch.length ≤ r.maxread.toNat := by omega
    have hidx := afterPayload_payIdx_toNat (out := xorFrom r.key r.payIdx.toNat ch) hle
    have e := rxFeed_eq_afterPayload hf hs h0 hc hle
    rw [List.map_cons, readLoop_meets ht hi h0, afterCommand_payloadData (congrArg RxHalf.resp e), e]
    obtain rfl | hchs := eq_or_ne chs []
    · have hend : r.payIdx.toNat + ch.length = r.maxread.toNat := hsum
      have hd : frameDone (afterPayload ch (xorFrom r.key r.payIdx.toNat ch) r) = true :=
        (frameDone_iff _).mpr ⟨hs, BitVec.eq_of_toNat_eq (hidx.trans hend)⟩
      rw [settle_unfragmented hd rfl hfin hop, List.flatten_cons, List.flatten_nil, List.append_nil]
      exact ⟨_, rfl⟩
    · obtain ⟨x, hx⟩ := List.exists_mem_of_ne_nil chs hchs
      have hxlen := List.length_pos_of_ne_nil (hcut x (List.mem_cons_of_mem _ hx)).1
      have hpos := (List.sublist_flatten_of_mem hx).length_le
      have hd : ¬frameDone (afterPayload ch (xorFrom r.key r.payIdx.toNat ch) r) = true := by
        rw [frameDone_iff]
        rintro ⟨-, h⟩
        have h : _ = r.maxread.toNat := congrArg BitVec.toNat h
        omega
      rw [settle_unfinished hd, resume, List.flatten_cons, xorFrom_append, ← List.append_assoc]
      have := ih (r := afterPayload ch (xorFrom r.key r.payIdx.toNat ch) r) (part := part ++ xorFrom r.key r.payIdx.toNat ch)
        hchs hf hs hfin hop (fun x hx => hcut x (List.mem_cons_of_mem _ hx)) (by rw [hidx, Nat.add_assoc]; exact hsum)
      rw [hidx] at this
      exact this

end InTime

/-- RX_START, accepted, leaves the block at a frame boundary (R152). -/
theorem rxStart_boundary {r : RxHalf} (hf : r.rxFault = none) (hs : r.st = .initial ∨ frameDone r = true) :
    (rxStart r).rxFault = none ∧ (rxStart r).st = .initial ∧ (rxStart r).haveBytes = 0 ∧ (rxStart r).msgTotal = 0 := by
  rw [rxStart, startWith_accepted hf hs]
  exact ⟨hf, rfl, rfl, rfl⟩

/-- Settles O60: the header begins the payload, and an empty payload, or the payload's last byte, ends the read. -/
theorem readDeliversTheMessage : Obligations.ReadDeliversTheMessage := by
  unfold Obligations.ReadDeliversTheMessage
  intro c r timeout delay ready firstDelay op payload key b header chunks hop hcont hlen hmax hf hs ht hi hfirst hhdr hcut
    hallowed
  rw [← frameDone_iff] at hs
  obtain ⟨hf0, hs0, hb0, hm0⟩ := rxStart_boundary hf hs
  have hceil : (rxStart r).msgTotal.toNat + payload.length ≤ c.maxPayload.toNat := by
    rw [hm0]
    simpa using hmax
  obtain ⟨q, hfed, hqf, hqs, hqb, hbegun⟩ :=
    fedFields_headerBytes c true key ((mem_opcodes_iff op).mp hop) hlen hf0 hs0 hb0 hceil
  have hloop : hostRead c timeout ready (⟨firstDelay, .bytes [b]⟩ :: (header.map fun x => Pass.mk (some delay) (.bytes [x]))
      ++ chunks.map fun ch => Pass.mk (some delay) (.bytes ch)) r
      = resume c timeout (chunks.map (meets delay)) (settle ⟨rxFeed c key.toList q, none, []⟩) := by
    rw [hostRead_of_accepted hf hs, List.cons_append, readLoop_first ht hi hfirst]
    show readLoop c timeout false (((b :: header).map fun x => meets delay [x]) ++ chunks.map (meets delay)) _ = _
    rw [hhdr, List.map_append, List.append_assoc, readLoop_of_fedFields ht hi hfed, readLoop_field ht hi _ hqf
      (by rw [hqs]; rfl) (List.ne_nil_of_length_pos (by simp)) (by rw [hqs, hqb]; simp [needTotal]),
      afterCommand_headerDone hbegun.resp]
  rw [hloop]
  generalize rxFeed c key.toList q = t at hbegun ⊢
  have hidx : t.payIdx.toNat = 0 := by rw [hbegun.payIdx]; rfl
  have hmaxread : t.maxread.toNat = payload.length := by rw [hbegun.maxread, hbegun.declaredLength]
  have hsum : chunks.flatten.length = payload.length := by rw [hcut, xorFrom_length]
  have hopt : t.opcode ≠ opCont := by rw [hbegun.opcode]; exact hcont
  obtain rfl | hpayload := eq_or_ne payload []
  · have hd : frameDone t = true := (frameDone_iff t).mpr ⟨hbegun.st, BitVec.eq_of_toNat_eq (hidx.trans hmaxread.symm)⟩
    rw [settle_unfragmented hd rfl hbegun.fin hopt, ← hbegun.opcode]
    exact ⟨_, rfl⟩
  · have hpos := List.length_pos_of_ne_nil hpayload
    have hd : ¬frameDone t = true := by
      rw [frameDone_iff]
      rintro ⟨-, h⟩
      rw [h] at hidx
      omega
    have hchunks : chunks ≠ [] := by
      rintro rfl
      rw [← hsum] at hpos
      exact absurd hpos (by simp)
    obtain ⟨r', h⟩ := readLoop_payload ht hi (part := []) hchunks hbegun.rxFault hbegun.st hbegun.fin hopt hallowed (by omega)
    rw [hcut, hbegun.key, hidx, xorFrom_xorFrom, hbegun.opcode, List.nil_append] at h
    exact ⟨r', (congrArg (resume c timeout _) (settle_unfinished hd)).trans h⟩

end Sys2Proof.Proofs
end
